-- ==== Sys2Proof/Word.lean ====
section
/-! DEFINITION. The bit vectors of the spec: 00_scope.md (Notation, R6) and 30_encoding.md (R31).
All of them are unsigned; bit 0 is the least significant bit. -/

namespace Sys2Proof

/-- A 32-bit value: `acc` and `crc` (R6, `WIDTH`). -/
abbrev Word := BitVec 32

/-- One byte of a message, the width of the pins `data` (R6, `DATA_W`; R23). -/
abbrev Byte := BitVec 8

/-- The command code on the pins `cmd` (R6, `CMD_W`; R30). -/
abbrev CommandCode := BitVec 2

/-- The command word `cmd` followed by `data`, `cmd` in the more significant place (R6, `WORD_W`; R31). -/
abbrev CommandWord := BitVec 10

end Sys2Proof
end

