-- ==== Sys2Proof/Machine/Crc.lean ====
section
/-! DEFINITION. The CRC constants (00_scope.md R3) and the arithmetic of one bit and one byte
(40_update.md R40, R41, R49). -/

namespace Sys2Proof.Machine

/-- `POLY` (R3): the coefficients of x^31 to x^0, most significant first. -/
def poly : Word := 0x04C11DB7#32

/-- `POLY_R` (R3): `POLY` with its 32 bits reversed. -/
def polyR : Word := 0xEDB88320#32

/-- `INIT` (R3): the raw register before the first byte. -/
def initValue : Word := 0xFFFFFFFF#32

/-- `XOROUT` (R3): XORed onto the raw register to give the checksum. -/
def xorOut : Word := 0xFFFFFFFF#32

/-- `CHECK` (R3): the checksum of the nine ASCII bytes "123456789". -/
def checkValue : Word := 0xCBF43926#32

/-- `RESIDUE` (R3, R51): the raw register after a message and its own checksum. -/
def residue : Word := 0xDEBB20E3#32

/-- One step of the right-shifting register with the input bit `b` (R40). -/
def step1 (a : Word) (b : Bool) : Word :=
  (a >>> 1) ^^^ (if a[0] ^^ b then polyR else 0#32)

/-- The bits of a byte in the order they are folded, bit 0 first (20_memory.md R22). -/
def byteBits (d : Byte) : List Bool :=
  [d[0], d[1], d[2], d[3], d[4], d[5], d[6], d[7]]

/-- One byte: `step1` on the bits of `d` from bit 0 to bit 7 (R41). -/
def step8 (a : Word) (d : Byte) : Word := (byteBits d).foldl step1 a

/-- Eight steps with no further input (R41). -/
def z8 (x : Word) : Word := (List.replicate 8 false).foldl step1 x

/-- The inverse of `step1 · b` (R49). -/
def unstep1 (a' : Word) (b : Bool) : Word :=
  let f := a'[31]
  let x := a' ^^^ (if f then polyR else 0#32)
  (x <<< 1) ||| (BitVec.ofBool (f ^^ b)).setWidth 32

end Sys2Proof.Machine
end

