-- ==== Sys2Proof/Config.lean ====
section
/-! DEFINITION. What is fixed for the block beside the CRC constants (which stand in Machine/Crc.lean), the
OPEN parameters, and the free values. A constant with no body is a value that nothing in Lean can see: a
claim that is proved holds whatever it is. -/

namespace Sys2Proof

/-- FREE VALUE (log entry 1; R8 "the host's free choice of inputs", R9). What the host presents at the edge with
this number where the State lists no sample for it: the 11 bits `rst`, `cmd[1:0]`, `data[7:0]` of R30, most
significant first. -/
opaque Config.freeInput : Nat → BitVec 11

/-- FREE VALUE (log entry 2; 10_state.md R19 "any of the 2^33 states"). `acc` before the first reset or INIT. -/
opaque Config.powerUpAcc : Word

/-- FREE VALUE (log entry 2; 10_state.md R19). `err` before the first reset or INIT. -/
opaque Config.powerUpErr : Bool

/-- OPEN (R6, D26): the clock frequency. No rule and no definition depends on it (log entry 8). -/
opaque Config.fClk : Nat

/-- OPEN (R6, D26): the inputs' set-up time. A violation shows as `Level.unknown` (log entry 3). -/
opaque Config.tSetup : Nat

/-- OPEN (R6, D26): the inputs' hold time. A violation shows as `Level.unknown` (log entry 3). -/
opaque Config.tHold : Nat

/-- OPEN (R6, D26): the clock-to-output delay. The model has no time but the count of edges (R79). -/
opaque Config.tCo : Nat

/-- The size of the host's reads, 1 MiB: a property of the host that no rule depends on (R6, D29). -/
def Config.chunkBytes : Nat := 1048576

end Sys2Proof
end

