-- ==== Sys2Proof/Machine/State.lean ====
section
/-! DEFINITION. The state of the block (10_state.md R10), the host's inputs to come, the reasons a step can
stop, and the states after reset and at power-up. -/

namespace Sys2Proof.Machine

/-- What one input pin shows at a rising edge (70_reset_and_hazards.md R75). -/
inductive Level where
  /-- A definite 0. -/
  | low
  /-- A definite 1. -/
  | high
  /-- Undriven, changing at the edge (a set-up or hold violation), or unknown. -/
  | unknown
  deriving DecidableEq, Repr

/-- What the 11 input pins show at one rising edge (30_encoding.md R30); entry `i` of a vector is pin `i`. -/
structure Sample where
  rst : Level
  cmd : Vector Level 2
  data : Vector Level 8
  deriving DecidableEq, Repr

/-- The definite input `in = (rst, cmd, data)` of one rising edge (R30). -/
structure Pins where
  rst : Bool
  cmd : CommandCode
  data : Byte
  deriving DecidableEq, Repr

/-- The pair the host can read (10_state.md R14). -/
structure Outputs where
  crc : Word
  err : Bool
  deriving DecidableEq, Repr

/-- The block's two state elements (R10) and the host's side of the model (R9, log entry 1). -/
structure State where
  /-- The raw CRC shift register (R11). -/
  acc : Word
  /-- The sticky abort flag (R12). -/
  err : Bool
  /-- MODEL'S OWN: the samples the host has laid out for the coming rising edges, oldest first. -/
  stream : List Sample
  /-- MODEL'S OWN: how many rising edges have passed; it picks the free input where `stream` has none. -/
  edge : Nat
  deriving DecidableEq, Repr

/-- The reasons a step stops with a fault: none (60_exceptions.md R69). The block's one exception, StreamAbort,
sets `err` and goes on (R60), so it is a next state and no member of this type (log entry 7). -/
inductive Fault
  deriving DecidableEq, Repr

/-- The reasons a step is refused. -/
inductive Refusal where
  /-- A command without a meaning in the model. Raised by no arm of `exec`. Safe. -/
  | notModelled (mnemonic : String)
  /-- An input bit at the edge is not a definite 0 or 1, so no next state is defined (R75, R69). Raised by
  `step` alone, before any command is read. Safe. -/
  | indefiniteInput
  deriving DecidableEq, Repr

/-- The machine right after reset: the values of 10_state.md R18, no edge passed and no input laid out. -/
def State.reset : State :=
  { acc := 0xFFFFFFFF#32, err := false, stream := [], edge := 0 }

/-- The machine when power has been applied: `acc` and `err` hold any value (R19, log entry 2). -/
def State.powerUp (stream : List Sample) : State :=
  { acc := Config.powerUpAcc, err := Config.powerUpErr, stream := stream, edge := 0 }

end Sys2Proof.Machine
end

