-- ==== Sys2Proof/Machine/Flags.lean ====
section
/-! DEFINITION. The flag `err`, the only one of the block (10_state.md R12): there are no condition codes, and no
command's behaviour depends on the value of `acc`. -/

namespace Sys2Proof.Machine

/-- Whether the block is in the faulted condition (60_exceptions.md R62). -/
abbrev faulted (s : State) : Bool := s.err

/-- `err <- 1`. -/
def setErr (s : State) : State := { s with err := true }

/-- `err <- 0`. -/
def clearErr (s : State) : State := { s with err := false }

end Sys2Proof.Machine
end

