-- ==== Sys2Proof/Syntax.lean ====
section
/-! DEFINITION. The commands of the CRC32GEN command set, version 1: one constructor per row of
spec/opcode_table.json. Reset is a pin and no command (R36). -/

namespace Sys2Proof

/-- The four commands (30_encoding.md R32). NOP, INIT and ABORT have no operand: the `data` bits presented
with them are ignored (R33, log entry 5). -/
inductive Instr where
  /-- NOP: do nothing for one cycle (41_control.md R53). -/
  | nop
  /-- UPD: fold one byte into the accumulator (40_update.md R42). -/
  | upd (data : Byte)
  /-- INIT: start a new message (41_control.md R54). -/
  | init
  /-- ABORT: mark the current message as failed (41_control.md R55). -/
  | abort
  deriving DecidableEq, Repr

end Sys2Proof
end

