-- ==== Sys2Proof/WellFormed.lean ====
section
/-! DEFINITION. Which commands and which raw patterns are well formed. -/

namespace Sys2Proof

/-- No encoding is reserved and no operand value is illegal (30_encoding.md R33, R34): every command is
well formed. Each constructor is named, so that a new one could not slip past. -/
def Instr.wellFormed : Instr → Bool
  | .nop => true
  | .upd _ => true
  | .init => true
  | .abort => true

/-- A pattern of bits is a command word exactly if it is one of the values `0x000` to `0x3FF` (R31). -/
def isCommandPattern (w : Nat) : Bool := w < 2 ^ 10

end Sys2Proof
end

