-- ==== Sys2Proof/Decode.lean ====
section
/-! DEFINITION. The command word's fields, its decoder and its encoder (30_encoding.md R31 to R35). -/

namespace Sys2Proof

/-- `word[9:8]` (R31). -/
def cmdField (w : CommandWord) : CommandCode := w.extractLsb' 8 2

/-- `word[7:0]`, the only operand field, unsigned (R31, R33). -/
def dataField (w : CommandWord) : Byte := w.extractLsb' 0 8

/-- The command a command word selects (R32). Total: all 1024 words are legal (R34); the `data` bits of
NOP, INIT and ABORT are dropped (R33). -/
def decode (w : CommandWord) : Instr :=
  if cmdField w = 0b00#2 then .nop
  else if cmdField w = 0b01#2 then .upd (dataField w)
  else if cmdField w = 0b10#2 then .init
  else .abort

/-- Why a pattern of bits is no command. -/
inductive DecodeReject where
  /-- The pattern has a bit set above bit 9, so it is no command word (R31). Safe: no pins could carry it. -/
  | notACommandWord (w : Nat)
  deriving DecidableEq, Repr

/-- The decoder on any pattern of bits, rejecting by name what is no command word (log entry 6). -/
def decodeBits (w : Nat) : Except DecodeReject Instr :=
  if isCommandPattern w then .ok (decode (BitVec.ofNat 10 w)) else .error (.notACommandWord w)

/-- The instruction that `decodeBits` reads from `nbits` bits numbered as spec/opcode_table.json numbers them;
bits above them are 0. -/
def decodeTableWord (nbits w : Nat) : Option Instr :=
  match decodeBits (w % 2 ^ nbits) with
  | .ok i => some i
  | .error _ => none

/-- The canonical word of a command: `data = 0x00` for NOP, INIT and ABORT, `0x100 + b` for `UPD b` (R35). -/
def encode : Instr → CommandWord
  | .nop => 0x000#10
  | .upd b => 0x100#10 + b.setWidth 10
  | .init => 0x200#10
  | .abort => 0x300#10

/-- A row of R32's table: the word `w` selects it if `(w & mask) == match`. -/
structure OpcodeRow where
  mnemonic : String
  pattern : CommandWord
  mask : CommandWord
  deriving DecidableEq, Repr

/-- The row of R32's table for a command. -/
def opcodeRow : Instr → OpcodeRow
  | .nop => ⟨"NOP", 0x000#10, 0x300#10⟩
  | .upd _ => ⟨"UPD", 0x100#10, 0x300#10⟩
  | .init => ⟨"INIT", 0x200#10, 0x300#10⟩
  | .abort => ⟨"ABORT", 0x300#10, 0x300#10⟩

/-- Whether a word selects a row (R32). -/
def OpcodeRow.selects (r : OpcodeRow) (w : CommandWord) : Bool := w &&& r.mask == r.pattern

end Sys2Proof
end

