-- ==== Sys2Proof/Machine/Operands.lean ====
section
/-! DEFINITION. The inputs of one edge: from pin levels to the definite triple `in` and back, the command word on
the pins, and the byte as a 32-bit value (30_encoding.md R30, R31, R33; 70_reset_and_hazards.md R75). -/

namespace Sys2Proof.Machine

/-- The bit a level stands for, if it is a definite 0 or 1 (R75). -/
def levelBit : Level → Option Bool
  | .low => some false
  | .high => some true
  | .unknown => none

/-- The level that shows a bit. -/
def bitLevel (b : Bool) : Level := if b then .high else .low

/-- The vector on `n` pins, entry `i` being bit `i`, if every pin shows a definite 0 or 1. -/
def levelsWord {n : Nat} (v : Vector Level n) : Option (BitVec n) :=
  if v.toList.all (fun l => (levelBit l).isSome) then
    some (BitVec.ofFnLE fun i => levelBit v[i] == some true)
  else none

/-- The levels that show a vector on `n` pins. -/
def wordLevels {n : Nat} (w : BitVec n) : Vector Level n :=
  Vector.ofFn fun i => bitLevel w[i]

/-- The definite input of a sample: none if any of its 11 bits is not a definite 0 or 1, a `data` bit that the
command would ignore included (R75, log entry 3). -/
def readSample (x : Sample) : Option Pins :=
  match levelBit x.rst, levelsWord x.cmd, levelsWord x.data with
  | some r, some c, some d => some ⟨r, c, d⟩
  | _, _, _ => none

/-- The sample of a definite input. -/
def drive (p : Pins) : Sample :=
  ⟨bitLevel p.rst, wordLevels p.cmd, wordLevels p.data⟩

/-- The 11 bits `rst`, `cmd`, `data`, most significant first, as an input triple (R30). -/
def pinsOfBits (b : BitVec 11) : Pins :=
  ⟨b[10], b.extractLsb' 8 2, b.extractLsb' 0 8⟩

/-- The command word on the pins, `cmd` in the more significant place (R31). -/
def pinsWord (p : Pins) : CommandWord := p.cmd ++ p.data

/-- The input that presents a command word with `rst = 0` (R35: a line with a command stands for such an edge). -/
def wordPins (w : CommandWord) : Pins := ⟨false, cmdField w, dataField w⟩

/-- The input of a reset edge; `cmd` and `data` do not matter and are written as 0x000 (R36). -/
def rstPins : Pins := ⟨true, 0b00#2, 0x00#8⟩

/-- The input that presents a command in its canonical encoding (R35). -/
def commandPins (i : Instr) : Pins := wordPins (encode i)

/-- The byte where a rule needs it at 32 bits, `zext_32(data)` (20_memory.md R23). -/
def zextByte (d : Byte) : Word := d.setWidth 32

/-- A sample that shows no definite input. -/
def unknownSample : Sample :=
  ⟨.unknown, Vector.replicate 2 .unknown, Vector.replicate 8 .unknown⟩

/-- The sample that presents a raw pattern of bits as a command word, or one that shows nothing definite if the
pattern is no command word (R31, log entry 6). -/
def patternSample (w : Nat) : Sample :=
  if isCommandPattern w then drive (wordPins (BitVec.ofNat 10 w)) else unknownSample

end Sys2Proof.Machine
end

