-- ==== Sys2Proof/Machine/Ops.lean ====
section
/-! DEFINITION. The named operations over the state: the accumulator's updates, taking the one exception, the
outputs, and the input at an edge. There is no memory to operate on (10_state.md R17, 20_memory.md R20). -/

namespace Sys2Proof.Machine

/-- `acc <- v`. -/
def writeAcc (v : Word) (s : State) : State := { s with acc := v }

/-- `acc <- 0xFFFFFFFF`, `err <- 0`: what reset and INIT both do (R70, R54, R72). It is also the only way out of the
faulted condition; there is no return from the exception (R66). -/
def fresh (s : State) : State := clearErr (writeAcc initValue s)

/-- `acc <- step8(acc, data)` (R42). -/
def foldByte (d : Byte) (s : State) : State := writeAcc (step8 s.acc d) s

/-- Taking the exception: `raise StreamAbort()` means `err <- 1` and nothing else (R60). Nothing is saved, no mode
changes and no control transfers (R65). -/
def raiseStreamAbort (s : State) : State := setErr s

/-- Output `crc` (10_state.md R13): the checksum of the message so far, forced to zero in the faulted condition. -/
def crcPin (s : State) : Word := if faulted s then 0x00000000#32 else s.acc ^^^ xorOut

/-- The pair `out(s)` the host can read; reading has no side effect (R14, R13). -/
def out (s : State) : Outputs := ⟨crcPin s, s.err⟩

/-- The checksum result, defined only when `err = 0` (R14). -/
def result (s : State) : Option Word := if faulted s then none else some (crcPin s)

/-- The definite input at the next rising edge, if there is one: that of the oldest sample laid out, or a free
input where none is (log entry 1). -/
def presented (s : State) : Option Pins :=
  match s.stream with
  | [] => some (pinsOfBits (Config.freeInput s.edge))
  | x :: _ => readSample x

/-- The passing of the edge on the host's side: its sample is used up. -/
def advance (s : State) : State := { s with stream := s.stream.tail, edge := s.edge + 1 }

/-- The host lays out these inputs for the edges next to come, before whatever it had laid out. -/
def present (ps : List Pins) (s : State) : State := { s with stream := ps.map drive ++ s.stream }

/-- The host presents this sample at the next edge, in place of what it had laid out for that edge. -/
def replaceNext (x : Sample) (s : State) : State := { s with stream := x :: s.stream.tail }

end Sys2Proof.Machine
end

