-- ==== Sys2Proof/Machine/Control.lean ====
section
/-! DEFINITION. The control commands NOP, INIT and ABORT (41_control.md R53 to R55). -/

namespace Sys2Proof.Machine

/-- NOP (R53): no assignment. -/
def execNop (s : State) : Host.Outcome State Fault Refusal := .next s

/-- INIT (R54): start a new message, discarding the one in progress and clearing the fault. -/
def execInit (s : State) : Host.Outcome State Fault Refusal := .next (fresh s)

/-- ABORT (R55): takes the exception StreamAbort, always; `acc` keeps its value. -/
def execAbort (s : State) : Host.Outcome State Fault Refusal := .next (raiseStreamAbort s)

end Sys2Proof.Machine
end

