-- ==== Sys2Proof/Machine/Update.lean ====
section
/-! DEFINITION. The computing command, UPD (40_update.md R42). -/

namespace Sys2Proof.Machine

/-- UPD (R42): fold one byte into the accumulator; no effect at all while `err = 1`. It cannot fail. -/
def execUpd (data : Byte) (s : State) : Host.Outcome State Fault Refusal :=
  if faulted s then .next s else .next (foldByte data s)

end Sys2Proof.Machine
end

