-- ==== Sys2Proof/Machine/Dispatch.lean ====
section
/-! DEFINITION. One arm per command of the opcode table. -/

namespace Sys2Proof.Machine

/-- What a command does to the state at an edge with `rst = 0` (30_encoding.md R32). -/
def exec (i : Instr) (s : State) : Host.Outcome State Fault Refusal :=
  match i with
  | .nop => Sys2Proof.Machine.execNop s
  | .upd data => Sys2Proof.Machine.execUpd data s
  | .init => Sys2Proof.Machine.execInit s
  | .abort => Sys2Proof.Machine.execAbort s

end Sys2Proof.Machine
end

