-- ==== Sys2Proof/Machine/Edge.lean ====
section
/-! DEFINITION. One rising edge: `step(s, in)` of 30_encoding.md R32. -/

namespace Sys2Proof.Machine

/-- Reset (70_reset_and_hazards.md R70): whatever `cmd` and `data` are, the command at the edge is not executed. -/
def resetEdge (s : State) : State := fresh s

/-- The step function (R32): reset if `rst = 1`, else the command on the pins. -/
def edgeStep (p : Pins) (s : State) : Host.Outcome State Fault Refusal :=
  if p.rst then .next (resetEdge s) else exec (decode (pinsWord p)) s

/-- One rising edge: the host's sample is used up, and the block takes its step. An input that is not definite has
no next state and is refused (R75). -/
def clockEdge (s : State) : Host.Outcome State Fault Refusal :=
  match presented s with
  | some p => edgeStep p (advance s)
  | none => .refused .indefiniteInput

end Sys2Proof.Machine
end

