-- ==== Sys2Proof/Machine/Step.lean ====
section
/-! DEFINITION. The step of the machine, one rising edge of `clk`, and where a command is placed for it. -/

namespace Sys2Proof.Machine

/-- One step: one rising edge (00_scope.md R9, 30_encoding.md R32). -/
def step (s : State) : Host.Outcome State Fault Refusal := clockEdge s

/-- `s` with the `nbits`-bit pattern `w` as the command word that the host presents, with `rst = 0`, at the next
rising edge (log entry 6). The block fetches nothing (10_state.md R15). -/
def State.withFetchWord (s : State) (nbits w : Nat) : State := replaceNext (patternSample (w % 2 ^ nbits)) s

end Sys2Proof.Machine
end

