-- ==== Sys2Proof/Machine/Run.lean ====
section
/-! DEFINITION. Several rising edges in order (20_memory.md R28). -/

namespace Sys2Proof.Machine

/-- The state after `n` rising edges: `s_k = step(s_(k-1), in_k)` (R28). -/
def runSteps : Nat → State → Host.Outcome State Fault Refusal
  | 0, s => .next s
  | n + 1, s =>
    match step s with
    | .next t => runSteps n t
    | .fault r => .fault r
    | .refused r => .refused r

end Sys2Proof.Machine
end

