-- ==== Sys2Proof/Machine/Message.lean ====
section
/-! DEFINITION. Whole messages and runs: `raw` and `crc32` (40_update.md R43), the ghost list `msg` (R46), what a
run computed (70_reset_and_hazards.md R74), and the host's sequence for `compute_checksum` (30_encoding.md R37).
None of it is hardware state (10_state.md R10). -/

namespace Sys2Proof.Machine

/-- The raw register after a message: the left fold of `step8` from `INIT` (R43). -/
def raw (m : List Byte) : Word := m.foldl step8 initValue

/-- The checksum of a message (R43). -/
def crc32 (m : List Byte) : Word := raw m ^^^ xorOut

/-- The bytes of a 32-bit value, least significant first, as a checksum is appended (20_memory.md R24). -/
def bytesLE (v : Word) : List Byte :=
  [v.extractLsb' 0 8, v.extractLsb' 8 8, v.extractLsb' 16 8, v.extractLsb' 24 8]

/-- XOR byte by byte of two messages of one length (R48 item 3). -/
def xorMsg (a b : List Byte) : List Byte := List.zipWith (· ^^^ ·) a b

/-- Bit `k` of a message's bit string: byte 0 first and, inside each byte, bit 0 first (R52). -/
def msgBit (m : List Byte) (k : Nat) : Bool := (m.getD (k / 8) 0#8).getLsbD (k % 8)

/-- The command an input executes; none at a reset edge (R32). -/
def commandAt (p : Pins) : Option Instr := if p.rst then none else some (decode (pinsWord p))

/-- Whether an edge executes reset or INIT, and so begins a run (R74). -/
def startsRun (p : Pins) : Bool := commandAt p == none || commandAt p == some .init

/-- Whether an edge executes ABORT. -/
def isAbort (p : Pins) : Bool := commandAt p == some .abort

/-- The ghost update of R46: reset and INIT empty `msg`, UPD with `err = 0` appends its byte, every other step
leaves it. -/
def nextMsg (p : Pins) (err : Bool) (msg : List Byte) : List Byte :=
  match commandAt p with
  | none => []
  | some .init => []
  | some (.upd d) => if err then msg else msg ++ [d]
  | some .nop => msg
  | some .abort => msg

/-- The bytes of the UPD commands executed in a run before any ABORT (R74); the inputs are those after the edge
that began the run. -/
def runMsg : List Pins → List Byte
  | [] => []
  | p :: ps =>
    match commandAt p with
    | some (.upd d) => d :: runMsg ps
    | some .abort => []
    | _ => runMsg ps

/-- The inputs that fold a byte each, in order. -/
def updPins (m : List Byte) : List Pins := m.map fun b => commandPins (.upd b)

/-- Idle edges: NOP words, one for each byte listed, with that byte on the ignored `data` pins (R33, R53). -/
def idlePins (junk : List Byte) : List Pins := junk.map fun d => ⟨false, 0b00#2, d⟩

/-- A stream cut into chunks, each followed by idle edges (R37, R47). -/
def chunkPins (cs : List (List Byte × List Byte)) : List Pins :=
  cs.flatMap fun c => updPins c.1 ++ idlePins c.2

/-- `compute_checksum` as the host's sequence: INIT, then one UPD per byte with NOPs between chunks (R37). -/
def checksumPins (cs : List (List Byte × List Byte)) : List Pins :=
  commandPins .init :: chunkPins cs

/-- `compute_checksum` when a read fails after the chunks given: ABORT in place of the rest (R37). -/
def failedPins (cs : List (List Byte × List Byte)) : List Pins :=
  checksumPins cs ++ [commandPins .abort]

end Sys2Proof.Machine
end

