-- ==== Sys2Proof/Machine/Assembler.lean ====
section
/-! DEFINITION. The host's text: `hex8` (00_scope.md R7), the listing syntax and its pseudo-instructions
(30_encoding.md R35, R36), assembling, disassembling and running a listing. None of it is hardware. -/

namespace Sys2Proof.Machine

/-- Text as a list of characters. -/
abbrev Text := List Char

/-- The digit of a 4-bit value, `0` to `9` then `A` to `F` (R7). -/
def hexDigit (v : BitVec 4) : Char :=
  if v.toNat < 10 then Char.ofNat (48 + v.toNat) else Char.ofNat (55 + v.toNat)

/-- The checksum as 8 upper-case hexadecimal digits, most significant first (R7). -/
def hex8 (v : Word) : Text :=
  (List.range 8).map fun k => hexDigit (v.extractLsb' (28 - 4 * k) 4)

/-- One line of a listing, its label and comment left out (R35, R36). -/
inductive Line where
  /-- A command. -/
  | command (i : Instr)
  /-- `RST n`; a bare `RST` is `RST 1`. DESIGN CHOICE: `RST 0` is allowed and takes no edge; R36 says `n >= 0` of
  `IDLE` alone (log entry 4). -/
  | rst (n : Nat)
  /-- `IDLE n`. -/
  | idle (n : Nat)
  /-- `MSG "text"`. DESIGN CHOICE: as a listing writes it, the text holds no double quote and may be empty (log
  entry 4). -/
  | msg (text : Text)
  /-- `BYTES b0 b1 ... bk`. -/
  | bytes (bs : List Byte)
  /-- `CRCLE v`. -/
  | crcle (v : Word)
  /-- `SAMPLE name`. -/
  | sample (name : Text)
  deriving DecidableEq, Repr

/-- The checks on a line: the characters of `MSG` have 7-bit ASCII codes, and `BYTES` lists at least `b0` (R36).
DESIGN CHOICE: no count is refused, `RST 0` included, which the spec neither allows nor forbids (log entry 4). -/
def lineWellFormed : Line → Bool
  | .command i => i.wellFormed
  | .rst _ => true
  | .idle _ => true
  | .msg text => text.all fun c => c.toNat < 128
  | .bytes bs => !bs.isEmpty
  | .crcle _ => true
  | .sample _ => true

/-- The inputs a line stands for, one per rising edge (R35, R36). `SAMPLE` takes no edge, nor does `RST 0` (DESIGN
CHOICE, log entry 4). -/
def expandLine : Line → List Pins
  | .command i => [commandPins i]
  | .rst n => List.replicate n rstPins
  | .idle n => List.replicate n (commandPins .nop)
  | .msg text => updPins (text.map fun c => BitVec.ofNat 8 c.toNat)
  | .bytes bs => updPins bs
  | .crcle v => updPins (bytesLE v)
  | .sample _ => []

/-- The inputs of a listing, in order. -/
def assemble (ls : List Line) : List Pins := ls.flatMap expandLine

/-- What the `SAMPLE` lines of a listing record, in order: the outputs as they stand after the preceding line's
edges (R36). The listing's inputs come before whatever the host had laid out. -/
def runListing : List Line → State → List (Text × Outputs)
  | [], _ => []
  | .sample name :: ls, s => (name, out s) :: runListing ls s
  | l :: ls, s =>
    match runSteps (expandLine l).length (present (expandLine l) s) with
    | .next t => runListing ls t
    | .fault _ => []
    | .refused _ => []

/-- A byte as `byte` of R35 writes it in hexadecimal, `0x` and two digits. -/
def byteText (b : Byte) : Text :=
  ['0', 'x', hexDigit (b.extractLsb' 4 4), hexDigit (b.extractLsb' 0 4)]

/-- A command as a listing writes it (R35); of the two forms of `byte` it takes the hexadecimal one (DESIGN CHOICE, log
entry 4). -/
def commandText : Instr → Text
  | .nop => ['N', 'O', 'P']
  | .upd b => ['U', 'P', 'D', ' '] ++ byteText b
  | .init => ['I', 'N', 'I', 'T']
  | .abort => ['A', 'B', 'O', 'R', 'T']

/-- What the disassembler prints for a word, the ignored bits dropped (R35). -/
def disassemble (w : CommandWord) : Text := commandText (decode w)

/-- The parts of a line of text. -/
inductive Token where
  | word (t : Text)
  | colon
  | chr (c : Char)
  | str (t : Text)
  deriving DecidableEq, Repr

/-- Where the reading of a line of text stands; what has been read of a token is kept last character first. -/
inductive LexMode where
  | idle
  | inWord (t : Text)
  | inChr
  | afterChr (c : Char)
  | inStr (t : Text)
  deriving DecidableEq, Repr

/-- A printable ASCII character (R35). -/
def isPrintable (c : Char) : Bool := 32 ≤ c.toNat && c.toNat ≤ 126

/-- White space between tokens: space or tab (log entry 4). -/
def isBlank (c : Char) : Bool := c.toNat == 32 || c.toNat == 9

/-- The single quote. -/
def quoteChar : Char := Char.ofNat 39

/-- The double quote. -/
def stringChar : Char := Char.ofNat 34

/-- The tokens of a line of text (R35, R36). DESIGN CHOICE (log entry 4): a semicolon outside quotes begins the comment;
the text of `MSG` ends at the first double quote after the one that opens it, with no escape, so it cannot hold one; a
quote right after a word makes the text no line, and so does one that is not closed; after a closing quote no white
space is needed before the next token. -/
def lexLine : LexMode → Text → Option (List Token)
  | .idle, [] => some []
  | .idle, c :: cs =>
    if c = ';' then some []
    else if isBlank c then lexLine .idle cs
    else if c = ':' then (lexLine .idle cs).map (.colon :: ·)
    else if c = quoteChar then lexLine .inChr cs
    else if c = stringChar then lexLine (.inStr []) cs
    else lexLine (.inWord [c]) cs
  | .inWord t, [] => some [.word t.reverse]
  | .inWord t, c :: cs =>
    if c = ';' then some [.word t.reverse]
    else if isBlank c then (lexLine .idle cs).map (.word t.reverse :: ·)
    else if c = ':' then (lexLine .idle cs).map (.word t.reverse :: .colon :: ·)
    else if c = quoteChar || c = stringChar then none
    else lexLine (.inWord (c :: t)) cs
  | .inChr, [] => none
  | .inChr, c :: cs => if isPrintable c then lexLine (.afterChr c) cs else none
  | .afterChr _, [] => none
  | .afterChr d, c :: cs => if c = quoteChar then (lexLine .idle cs).map (.chr d :: ·) else none
  | .inStr _, [] => none
  | .inStr t, c :: cs =>
    if c = stringChar then (lexLine .idle cs).map (.str t.reverse :: ·) else lexLine (.inStr (c :: t)) cs

/-- The value of a hexadecimal digit of either case (log entry 4). -/
def hexValue (c : Char) : Option Nat :=
  if 48 ≤ c.toNat && c.toNat ≤ 57 then some (c.toNat - 48)
  else if 65 ≤ c.toNat && c.toNat ≤ 70 then some (c.toNat - 55)
  else if 97 ≤ c.toNat && c.toNat ≤ 102 then some (c.toNat - 87)
  else none

/-- The value of hexadecimal digits, most significant first. -/
def hexNumber : Nat → Text → Option Nat
  | v, [] => some v
  | v, c :: cs => (hexValue c).bind fun d => hexNumber (16 * v + d) cs

/-- The value of decimal digits, most significant first. -/
def decimalNumber : Nat → Text → Option Nat
  | v, [] => some v
  | v, c :: cs => if 48 ≤ c.toNat && c.toNat ≤ 57 then decimalNumber (10 * v + (c.toNat - 48)) cs else none

/-- A count, written in decimal (00_scope.md, Notation), leading zeros allowed (DESIGN CHOICE, log entry 4). -/
def countOf : Token → Option Nat
  | .word [] => none
  | .word (c :: cs) => decimalNumber 0 (c :: cs)
  | _ => none

/-- `byte` of R35: `0x` and two digits, or a quoted character. -/
def byteOf : Token → Option Byte
  | .word ['0', 'x', h, l] => (hexNumber 0 [h, l]).map (BitVec.ofNat 8)
  | .chr c => some (BitVec.ofNat 8 c.toNat)
  | _ => none

/-- A 32-bit value: `0x` and one to eight digits (log entry 4). -/
def wordOf : Token → Option Word
  | .word ('0' :: 'x' :: h :: hs) => if hs.length ≤ 7 then (hexNumber 0 (h :: hs)).map (BitVec.ofNat 32) else none
  | _ => none

/-- The line that tokens spell, its label left out. -/
def lineOf : List Token → Option Line
  | [.word ['N', 'O', 'P']] => some (.command .nop)
  | [.word ['I', 'N', 'I', 'T']] => some (.command .init)
  | [.word ['A', 'B', 'O', 'R', 'T']] => some (.command .abort)
  | [.word ['U', 'P', 'D'], b] => (byteOf b).map fun v => .command (.upd v)
  | [.word ['R', 'S', 'T']] => some (.rst 1)
  | [.word ['R', 'S', 'T'], n] => (countOf n).map .rst
  | [.word ['I', 'D', 'L', 'E'], n] => (countOf n).map .idle
  | [.word ['M', 'S', 'G'], .str t] => some (.msg t)
  | .word ['B', 'Y', 'T', 'E', 'S'] :: bs => (bs.mapM byteOf).map .bytes
  | [.word ['C', 'R', 'C', 'L', 'E'], v] => (wordOf v).map .crcle
  | [.word ['S', 'A', 'M', 'P', 'L', 'E'], .word n] => some (.sample n)
  | _ => none

/-- A line without its label; a label names a line for reference only (R35). DESIGN CHOICE: any one word may be a
label, and a line has at most one (log entry 4). -/
def dropLabel : List Token → List Token
  | .word _ :: .colon :: ts => ts
  | ts => ts

/-- The line that a text of the listing syntax writes, if it writes one and the line is well formed (R35, R36). -/
def parseLine (t : Text) : Option Line :=
  match (lexLine .idle t).bind fun ts => lineOf (dropLabel ts) with
  | some l => if lineWellFormed l then some l else none
  | none => none

end Sys2Proof.Machine
end

