-- ==== Sys2Proof/Machine/Finalised.lean ====
section
/-! DEFINITION. The block that 10_state.md R11 calls invisible at the pins: the same commands over a register that
holds the finalised value, `acc ^ 0xFFFFFFFF`, in the place of `acc`. It is no part of the machine. -/

namespace Sys2Proof.Machine

/-- The two state elements of a block that stores the finalised value (R11). -/
structure FinalBlock where
  fin : Word
  err : Bool
  deriving DecidableEq, Repr

/-- UPD over the finalised value: `crc' = step8(crc ^ 0xFFFFFFFF, data) ^ 0xFFFFFFFF` (R11). -/
def finalUpd (c : Word) (d : Byte) : Word := step8 (c ^^^ xorOut) d ^^^ xorOut

/-- One edge of that block: reset and INIT store the visible seed 0, UPD applies R11's identity, ABORT and NOP keep
the stored value. -/
def finalStep (p : Pins) (b : FinalBlock) : FinalBlock :=
  match commandAt p with
  | none => ⟨0x00000000#32, false⟩
  | some .init => ⟨0x00000000#32, false⟩
  | some (.upd d) => if b.err then b else { b with fin := finalUpd b.fin d }
  | some .nop => b
  | some .abort => { b with err := true }

/-- The outputs of that block: the stored value itself, gated by `err` as R13 says. -/
def finalOut (b : FinalBlock) : Outputs := ⟨if b.err then 0x00000000#32 else b.fin, b.err⟩

/-- The block with finalised storage that stands for a state. -/
def finalise (s : State) : FinalBlock := ⟨s.acc ^^^ xorOut, s.err⟩

end Sys2Proof.Machine
end

