-- ==== Sys2Proof/Safety.lean ====
section
/-! DEFINITION. What the claims take as a safe or an equal run. -/

namespace Sys2Proof

open Machine

/-- The host keeps every input bit definite at the edges it has laid out (70_reset_and_hazards.md R75). -/
def InputsDefinite (s : State) : Prop := ∀ x ∈ s.stream, (readSample x).isSome = true

/-- The invariant of 40_update.md R46 between the block and the ghost list `msg`: the register is `raw(msg)`. -/
def HoldsMessage (s : State) (msg : List Byte) : Prop := s.acc = raw msg

/-- Two states that no host can tell apart by the outputs, now or later: they differ at most in `acc`, and only in
the faulted condition (41_control.md R55 corner case c). -/
def SameView (s t : State) : Prop :=
  s.err = t.err ∧ s.stream = t.stream ∧ s.edge = t.edge ∧ (s.err = false → s.acc = t.acc)

end Sys2Proof
end

