-- ==== Sys2Proof/Certificates/Slice0/Obligations.lean ====
section
/-! DEFINITION. The statements for the provers. A statement over every state `s` speaks of states no run reaches too.
`presented s = some p` says that the definite input at the coming edge is `p`, laid out by the host or free. `stream`,
`edge` and with them `advance` and `present` are the MODEL'S OWN record of the host's inputs (log entry 1); what a
statement says of them is the model's choice and no rule of the spec. -/

open Sys2Proof Sys2Proof.Machine

/-! Encoding and dispatch -/

/-- Command words written from R32's patterns, canonical and not, decode to the commands they stand for. -/
def Obligations.SpecWordsDecode : Prop :=
  decode 0x000#10 = .nop ∧ decode 0x0AB#10 = .nop ∧ decode 0x0FF#10 = .nop ∧
  decode 0x100#10 = .upd 0x00#8 ∧ decode 0x131#10 = .upd 0x31#8 ∧ decode 0x1FF#10 = .upd 0xFF#8 ∧
  decode 0x200#10 = .init ∧ decode 0x2A5#10 = .init ∧
  decode 0x300#10 = .abort ∧ decode 0x3C3#10 = .abort ∧ decode 0x3FF#10 = .abort

/-- Decode and encode agree (30_encoding.md R31, R32, R35): every command's canonical word decodes to it, the word
selects the command's row of the table and no other row, and encoding a decoded word gives the word back, with the
`data` bits cleared for NOP, INIT and ABORT. -/
def Obligations.DecodeAndEncodeAgree : Prop :=
  (∀ i : Instr, decode (encode i) = i) ∧
  (∀ (w : CommandWord) (i : Instr),
    (opcodeRow i).selects w = true ↔ (opcodeRow i).mnemonic = (opcodeRow (decode w)).mnemonic) ∧
  (∀ w : CommandWord, encode (decode w) = if cmdField w = 0b01#2 then w else cmdField w ++ 0x00#8)

/-- R34: every one of the 1024 command words is legal, and the 255 non-canonical encodings of each of NOP, INIT and
ABORT behave exactly like the canonical one. -/
def Obligations.EveryWordIsLegal : Prop :=
  ∀ (c : CommandCode) (d : Byte) (s : State),
    (∃ t, edgeStep ⟨false, c, d⟩ s = .next t) ∧
    (c ≠ 0b01#2 → edgeStep ⟨false, c, d⟩ s = edgeStep ⟨false, c, 0x00#8⟩ s)

/-- A step at an edge with `rst = 0` runs the decoded command word, after the host's sample is used up; a command
word placed for the next edge is what the next step runs. -/
def Obligations.StepRunsTheDecodedCommand : Prop :=
  (∀ (s : State) (p : Pins), presented s = some p → p.rst = false →
    step s = exec (decode (p.cmd ++ p.data)) (advance s)) ∧
  (∀ (s : State) (nbits w : Nat), w < 2 ^ nbits → w < 2 ^ 10 →
    step (s.withFetchWord nbits w) = exec (decode (BitVec.ofNat 10 w)) (advance s))

/-- R32: the step is reset if `rst = 1`, else the command that `cmd` selects, and every definite input in every state
has exactly one next state. -/
def Obligations.StepDispatchesOnResetThenCommand : Prop :=
  (∀ (s : State) (p : Pins), presented s = some p →
    (p.rst = true → step s = .next (resetEdge (advance s))) ∧
    (p.rst = false → p.cmd = 0b00#2 → step s = execNop (advance s)) ∧
    (p.rst = false → p.cmd = 0b01#2 → step s = execUpd p.data (advance s)) ∧
    (p.rst = false → p.cmd = 0b10#2 → step s = execInit (advance s)) ∧
    (p.rst = false → p.cmd = 0b11#2 → step s = execAbort (advance s)) ∧
    ∃ t, step s = .next t) ∧
  opcodeRow .nop = ⟨"NOP", 0x000#10, 0x300#10⟩ ∧
  (∀ d, opcodeRow (.upd d) = ⟨"UPD", 0x100#10, 0x300#10⟩) ∧
  opcodeRow .init = ⟨"INIT", 0x200#10, 0x300#10⟩ ∧
  opcodeRow .abort = ⟨"ABORT", 0x300#10, 0x300#10⟩ ∧
  (∀ w i, (opcodeRow i).selects w = true ↔ (opcodeRow i).mnemonic = (opcodeRow (decode w)).mnemonic)

/-! The commands and reset -/

/-- R42: UPD folds its byte into `acc` if `err = 0` and has no effect at all if `err = 1`; nothing else changes, and
it never stops. With it the rule's encoding, its corner cases and its worked example. -/
def Obligations.UpdFoldsOneByte : Prop :=
  (∀ (d : Byte) (s : State),
    exec (.upd d) s = .next (if s.err = true then s else { s with acc := step8 s.acc d })) ∧
  (∀ (d : Byte) (s : State), presented s = some ⟨false, 0b01#2, d⟩ →
    step s = .next (if s.err = true then advance s else { advance s with acc := step8 s.acc d })) ∧
  (∀ d : Byte, encode (.upd d) = 0x100#10 + d.setWidth 10) ∧
  step8 0xFFFFFFFF#32 0x00#8 = 0x2DFD1072#32 ∧
  raw [0xFF#8, 0xFF#8, 0xFF#8, 0xFF#8] = 0x00000000#32 ∧
  crc32 [0xFF#8, 0xFF#8, 0xFF#8, 0xFF#8] = 0xFFFFFFFF#32 ∧
  (∀ n : Nat, (List.replicate n 0x00#8).foldl step8 0x00000000#32 = 0x00000000#32) ∧
  (∀ s : State, s.acc = 0xFFFFFFFF#32 → s.err = false →
    ∃ t, exec (decode 0x131#10) s = .next t ∧ t.acc = 0x7C231048#32 ∧ (out t).crc = 0x83DCEFB7#32)

/-- R53: NOP assigns nothing, for any `data`, in any number. -/
def Obligations.NopChangesNothing : Prop :=
  (∀ s : State, exec .nop s = .next s) ∧
  (∀ (d : Byte) (s : State), presented s = some ⟨false, 0b00#2, d⟩ →
    step s = .next (advance s) ∧ out (advance s) = out s) ∧
  (∀ (junk : List Byte) (s : State),
    runSteps junk.length (present (idlePins junk) s) = .next { s with edge := s.edge + junk.length }) ∧
  encode .nop = 0x000#10

/-- R54: INIT sets `acc` to `0xFFFFFFFF` and clears `err`, whatever they and `data` were; the state is then that after
reset. -/
def Obligations.InitStartsANewMessage : Prop :=
  (∀ s : State, exec .init s = .next { s with acc := 0xFFFFFFFF#32, err := false }) ∧
  (∀ (d : Byte) (s : State), presented s = some ⟨false, 0b10#2, d⟩ →
    step s = .next { advance s with acc := 0xFFFFFFFF#32, err := false }) ∧
  (∀ s t : State, exec .init s = .next t →
    out t = ⟨0x00000000#32, false⟩ ∧ exec .init t = .next t ∧
      t.acc = State.reset.acc ∧ t.err = State.reset.err) ∧
  encode .init = 0x200#10

/-- R55: ABORT takes the exception, which sets `err` and keeps `acc`; from then on the outputs are `crc = 0`, `err = 1`
whatever commands are presented, until one is INIT or the edge is a reset. -/
def Obligations.AbortFailsTheMessage : Prop :=
  (∀ s : State, exec .abort s = .next { s with err := true }) ∧
  (∀ (d : Byte) (s : State), presented s = some ⟨false, 0b11#2, d⟩ →
    step s = .next { advance s with err := true }) ∧
  (∀ (d : Byte) (ps : List Pins) (s : State), (∀ p ∈ ps, startsRun p = false) →
    ∃ t, runSteps (ps.length + 1) (present (⟨false, 0b11#2, d⟩ :: ps) s) = .next t ∧
      out t = ⟨0x00000000#32, true⟩ ∧ t.acc = s.acc) ∧
  encode .abort = 0x300#10

/-- R60: `raise StreamAbort()` sets `err` and changes nothing else; at an edge where `err` was 0, `err` becomes 1
exactly if `rst = 0` and `cmd = 0b11`. -/
def Obligations.OnlyAbortRaisesStreamAbort : Prop :=
  (∀ s : State, raiseStreamAbort s = { s with err := true }) ∧
  (∀ s : State, exec .abort s = .next (raiseStreamAbort s)) ∧
  (∀ (s : State) (p : Pins), presented s = some p → s.err = false →
    ∃ t, step s = .next t ∧ (t.err = true ↔ p.rst = false ∧ p.cmd = 0b11#2))

/-- R70: an edge with `rst = 1` sets `acc` to `0xFFFFFFFF` and `err` to 0 whatever `cmd` and `data` are, and the
command on the pins leaves no trace; with `rst = 0` the edge executes the command. -/
def Obligations.ResetEdgeLoadsTheResetValues : Prop :=
  ∀ (s : State) (p : Pins), presented s = some p →
    (p.rst = true → step s = .next { advance s with acc := 0xFFFFFFFF#32, err := false }) ∧
    (p.rst = false → step s = exec (decode (p.cmd ++ p.data)) (advance s))

/-- R64: `rst` has priority over every command, ABORT among them; of INIT and ABORT at successive edges the later one
wins; and an edge does exactly one of the five things. -/
def Obligations.ResetHasPriorityAndLaterCommandWins : Prop :=
  (∀ (s : State) (d : Byte), presented s = some ⟨true, 0b11#2, d⟩ → ∃ t, step s = .next t ∧ t.err = false) ∧
  (∀ (s : State) (p : Pins), presented s = some p →
    step s = if p.rst = true then .next (resetEdge (advance s)) else exec (decode (p.cmd ++ p.data)) (advance s)) ∧
  (∀ s : State, ∃ t, runSteps 2 (present [commandPins .init, commandPins .abort] s) = .next t ∧
    t.err = true) ∧
  (∀ s : State, ∃ t, runSteps 2 (present [commandPins .abort, commandPins .init] s) = .next t ∧
    t.err = false)

/-- 70_reset_and_hazards.md (the spec derives it there, R71 and R72): an edge that executes INIT has the very effect of
a reset edge, and any number of reset edges, at least one, leaves what one leaves. -/
def Obligations.InitAndResetHaveOneEffect : Prop :=
  (∀ (p q : Pins) (s : State), startsRun p = true → startsRun q = true → edgeStep p s = edgeStep q s) ∧
  (∀ (n : Nat) (s : State),
    runSteps (n + 1) (present (List.replicate (n + 1) rstPins) s) =
      .next { s with acc := 0xFFFFFFFF#32, err := false, edge := s.edge + (n + 1) })

/-- Which commands write which state element (10_state.md, section 1): `acc` only INIT and UPD, `err` only INIT and
ABORT, and the host's side none; every command ends in a next state. -/
def Obligations.CommandsWriteOnlyTheirElements : Prop :=
  ∀ (i : Instr) (s : State), ∃ t, exec i s = .next t ∧
    t.stream = s.stream ∧ t.edge = s.edge ∧
    (t.acc ≠ s.acc → i = .init ∨ ∃ d, i = .upd d) ∧
    (t.err ≠ s.err → i = .init ∨ i = .abort)

/-! Outputs, reset state, power-up, refusal -/

/-- R13 and R14: `crc` is zero if `err = 1` and else `acc ^ 0xFFFFFFFF`; the output `err` is the state element; the
outputs depend on `acc` and `err` alone; the checksum result is defined only when `err = 0`; the first hexadecimal
digit of `hex8(crc)` is `crc[31:28]`. -/
def Obligations.OutputsAreFunctionsOfAccAndErr : Prop :=
  ∀ s : State,
    (out s).crc = (if s.err = true then 0x00000000#32 else s.acc ^^^ 0xFFFFFFFF#32) ∧
    (out s).err = s.err ∧
    result s = (if s.err = true then none else some (out s).crc) ∧
    (∀ t : State, t.acc = s.acc → t.err = s.err → out t = out s) ∧
    (hex8 (out s).crc).head? = some (hexDigit ((out s).crc.extractLsb' 28 4))

/-- R18: after a reset `acc = 0xFFFFFFFF` and `err = 0`, and the outputs are `crc = 0x00000000` and `err = 0`. -/
def Obligations.ResetStateHasTheSpecsValues : Prop :=
  State.reset.acc = 0xFFFFFFFF#32 ∧ State.reset.err = false ∧ out State.reset = ⟨0x00000000#32, false⟩

/-- 10_state.md section 6 and 70_reset_and_hazards.md section 2: from the power-up state, whatever it is (free values,
log entry 2), one edge with reset or INIT gives the fully specified state. -/
def Obligations.OneFreshEdgeEndsPowerUp : Prop :=
  ∀ (p : Pins) (rest : List Sample), startsRun p = true →
    ∃ t, step (State.powerUp (drive p :: rest)) = .next t ∧
      t.acc = 0xFFFFFFFF#32 ∧ t.err = false ∧ t.stream = rest ∧ out t = ⟨0x00000000#32, false⟩

/-- 70_reset_and_hazards.md section 4 and 60_exceptions.md section 10 (log entry 3): a step is refused exactly if an
input pin of the sample laid out is not definite, an ignored `data` pin included; every other step has a next state. -/
def Obligations.StepRefusesExactlyIndefiniteInputs : Prop :=
  ∀ s : State,
    ((∃ x rest, s.stream = x :: rest ∧
        (x.rst = .unknown ∨ (∃ i : Fin 2, x.cmd[i] = .unknown) ∨ ∃ i : Fin 8, x.data[i] = .unknown)) →
      step s = .refused .indefiniteInput) ∧
    ((¬ ∃ x rest, s.stream = x :: rest ∧
        (x.rst = .unknown ∨ (∃ i : Fin 2, x.cmd[i] = .unknown) ∨ ∃ i : Fin 8, x.data[i] = .unknown)) →
      ∃ t, step s = .next t)

/-- 70_reset_and_hazards.md section 5: every command and every reset takes exactly one edge, and an edge uses up one
sample of the host. (`edge` and `stream` are the model's own fields, log entry 1.) -/
def Obligations.EveryCommandTakesOneEdge : Prop :=
  ∀ (s : State) (p : Pins), presented s = some p →
    ∃ t, step s = .next t ∧ t.edge = s.edge + 1 ∧ t.stream = s.stream.tail

/-- R28: strict sequential order. With inputs laid out, the state after edge k is the step function applied to the
state after edge k-1 and to input k; nothing is buffered, reordered, merged or dropped. -/
def Obligations.StateAfterEachEdgeIsStepOfTheLast : Prop :=
  (∀ (ps : List Pins) (s : State), ∃ t, runSteps ps.length (present ps s) = .next t ∧
    t.stream = s.stream ∧ t.edge = s.edge + ps.length) ∧
  (∀ (ps qs : List Pins) (p : Pins) (s : State), ∃ t u,
    runSteps ps.length (present (ps ++ p :: qs) s) = .next t ∧
    presented t = some p ∧
    edgeStep p (advance t) = .next u ∧
    runSteps (ps.length + 1) (present (ps ++ p :: qs) s) = .next u)

/-! The arithmetic -/

/-- R40: `step1` in one formula, bit by bit, the ones of `POLY_R`, and the rule's examples. -/
def Obligations.OneBitStepMatchesItsEquations : Prop :=
  (∀ (a : Word) (b : Bool),
    step1 a b = (a >>> 1) ^^^ (if (a[0] ^^ b) = true then 0xEDB88320#32 else 0x00000000#32) ∧
    (∀ (i : Nat) (h : i < 31), (step1 a b)[i] = (a[i + 1] ^^ ((a[0] ^^ b) && polyR[i]))) ∧
    (step1 a b)[31] = (a[0] ^^ b)) ∧
  (∀ (i : Nat) (h : i < 32),
    polyR[i] = decide (i ∈ [31, 30, 29, 27, 26, 24, 23, 21, 20, 19, 15, 9, 8, 5]) ∧ polyR[i] = poly[31 - i]) ∧
  step1 0x00000000#32 false = 0x00000000#32 ∧ step1 0x00000000#32 true = 0xEDB88320#32 ∧
  step1 0x00000001#32 false = 0xEDB88320#32 ∧ step1 0x00000001#32 true = 0x00000000#32 ∧
  step1 0x00000002#32 false = 0x00000001#32 ∧ step1 0x80000000#32 false = 0x40000000#32 ∧
  step1 0xFFFFFFFF#32 false = 0x92477CDF#32 ∧ step1 0xFFFFFFFF#32 true = 0x7FFFFFFF#32

/-- 40_update.md section 2: `step8` applies `step1` to the bits of the byte from bit 0 to bit 7, and equals eight
zero-input steps of the register with the byte XORed into its low 8 bits (the spec derives this form). -/
def Obligations.ByteStepEqualsXorThenShift : Prop :=
  ∀ (a : Word) (d : Byte),
    step8 a d = step1 (step1 (step1 (step1 (step1 (step1 (step1 (step1 a d[0]) d[1]) d[2]) d[3]) d[4]) d[5]) d[6]) d[7] ∧
    step8 a d = z8 (a ^^^ d.setWidth 32)

/-- 40_update.md section 5 (the spec derives it there): the printed table holds `z8` of each index, and the table form
on it equals `step8`. -/
def Obligations.TableFormEqualsByteStep : Prop :=
  printedTable.length = 256 ∧
  (∀ i : Byte, printedTable[i.toNat]? = some (z8 (i.setWidth 32))) ∧
  (∀ (a : Word) (d : Byte), step8 a d = step8Table a d)

/-- 40_update.md section 5 (the spec derives it there): the 32 XOR equations equal `step8`. -/
def Obligations.ParallelFormEqualsByteStep : Prop :=
  ∀ (acc : Word) (data : Byte), step8 acc data = step8Parallel acc data

/-- 40_update.md section 7, items 1 and 2 (the spec derives them): `step1` and `step8` are linear over GF(2) in their
pair of arguments. -/
def Obligations.ByteStepIsLinear : Prop :=
  (∀ (a1 a2 : Word) (b1 b2 : Bool), step1 (a1 ^^^ a2) (b1 ^^ b2) = step1 a1 b1 ^^^ step1 a2 b2) ∧
  (∀ (a1 a2 : Word) (d1 d2 : Byte), step8 (a1 ^^^ a2) (d1 ^^^ d2) = step8 a1 d1 ^^^ step8 a2 d2) ∧
  step8 0x00000000#32 0x00#8 = 0x00000000#32 ∧
  (∀ (a : Word) (d : Byte), step8 a d = step8 (a ^^^ d.setWidth 32) 0x00#8)

/-- 40_update.md section 7 (the spec derives it there): for a fixed bit `step1` is a bijection with the stated inverse,
for a fixed byte `step8` is a bijection, and for a fixed register it is injective in the byte. -/
def Obligations.ByteStepIsABijection : Prop :=
  (∀ (a : Word) (b : Bool), unstep1 (step1 a b) b = a ∧ step1 (unstep1 a b) b = a) ∧
  (∀ d : Byte, Function.Bijective fun a : Word => step8 a d) ∧
  (∀ a : Word, Function.Injective fun d : Byte => step8 a d)

/-! Whole messages -/

/-- R43: `raw` is the left fold of `step8` from `0xFFFFFFFF`, `crc32` applies the final XOR, and the rule's examples. -/
def Obligations.ChecksumIsTheFoldWithFinalXor : Prop :=
  raw [] = 0xFFFFFFFF#32 ∧
  (∀ (m : List Byte) (b : Byte), raw (m ++ [b]) = step8 (raw m) b) ∧
  (∀ m : List Byte, crc32 m = raw m ^^^ 0xFFFFFFFF#32) ∧
  crc32 [] = 0x00000000#32 ∧
  crc32 [0x31#8, 0x32#8, 0x33#8, 0x34#8, 0x35#8, 0x36#8, 0x37#8, 0x38#8, 0x39#8] = 0xCBF43926#32 ∧
  crc32 [0x61#8] = 0xE8B7BE43#32 ∧
  crc32 [0x61#8, 0x62#8, 0x63#8] = 0x352441C2#32 ∧
  crc32 [0x00#8] = 0xD202EF8D#32 ∧
  crc32 [0xFF#8] = 0xFF000000#32

/-- 40_update.md section 6 (the spec derives it there): the invariant that links the block to the function. If `acc`
is `raw(msg)` then after every step with a definite input it is `raw` of the updated ghost list, and the outputs are
`crc32` of that list, or the faulted pair; and an edge with reset or INIT establishes it from any state. -/
def Obligations.EveryStepKeepsTheMessage : Prop :=
  (∀ (s : State) (p : Pins) (msg : List Byte), HoldsMessage s msg → presented s = some p →
    ∃ t, step s = .next t ∧ HoldsMessage t (nextMsg p s.err msg) ∧
      out t = (if t.err = true then ⟨0x00000000#32, true⟩ else ⟨crc32 (nextMsg p s.err msg), false⟩)) ∧
  (∀ (s : State) (p : Pins), presented s = some p → startsRun p = true →
    ∃ t, step s = .next t ∧ HoldsMessage t [] ∧ t.err = false)

/-- The invariant holds at reset, with the empty message. -/
def Obligations.ResetHoldsTheEmptyMessage : Prop :=
  HoldsMessage State.reset [] ∧ State.reset.err = false

/-- R74: a run begins at an edge that executes reset or INIT; at the host's sampling moment its result is
`(crc32(msg), 0)` if no ABORT was executed in it, and `(0x00000000, 1)` if one was, `msg` being the bytes of its UPD
commands before any ABORT. -/
def Obligations.ResultOfARun : Prop :=
  ∀ (s : State) (start : Pins) (ps : List Pins), startsRun start = true → (∀ p ∈ ps, startsRun p = false) →
    ∃ t, runSteps (ps.length + 1) (present (start :: ps) s) = .next t ∧
      out t = if ps.any isAbort = true then ⟨0x00000000#32, true⟩ else ⟨crc32 (runMsg ps), false⟩

/-- R37: INIT (or RST), one UPD per byte in order with any number of NOPs between the chunks, then sampling, gives the
checksum of the bytes; ABORT in place of the remaining lines gives `err = 1` and no checksum. -/
def Obligations.ComputeChecksumSequence : Prop :=
  ∀ (s : State) (start : Pins) (cs : List (List Byte × List Byte)),
    (start = commandPins .init ∨ start = rstPins) →
    (∃ t, runSteps ((chunkPins cs).length + 1) (present (start :: chunkPins cs) s) = .next t ∧
      out t = ⟨crc32 (cs.flatMap Prod.fst), false⟩ ∧ result t = some (crc32 (cs.flatMap Prod.fst))) ∧
    (∃ t, runSteps ((chunkPins cs).length + 2)
        (present (start :: chunkPins cs ++ [commandPins .abort]) s) = .next t ∧
      out t = ⟨0x00000000#32, true⟩ ∧ result t = none)

/-- 40_update.md section 6 (the spec derives it there): chunk independence. Folding is a left fold over concatenation,
NOPs between two parts change no state, and a finalised running value may be carried from chunk to chunk. -/
def Obligations.ChunkBoundariesDoNotMatter : Prop :=
  (∀ A B : List Byte, raw (A ++ B) = B.foldl step8 (raw A)) ∧
  (∀ (A B junk : List Byte) (s : State), ∃ t u,
    runSteps (A.length + junk.length + B.length)
      (present (updPins A ++ idlePins junk ++ updPins B) s) = .next t ∧
    runSteps (A ++ B).length (present (updPins (A ++ B)) s) = .next u ∧
    t.acc = u.acc ∧ t.err = u.err ∧ out t = out u) ∧
  (∀ A B : List Byte, crc32 (A ++ B) = B.foldl step8 (crc32 A ^^^ 0xFFFFFFFF#32) ^^^ 0xFFFFFFFF#32)

/-- 40_update.md section 7 item 3 (the spec derives it there): `crc32` is affine on messages of one length. -/
def Obligations.ChecksumIsAffine : Prop :=
  (∀ A B C : List Byte, A.length = B.length → B.length = C.length →
    crc32 (xorMsg (xorMsg A B) C) = crc32 A ^^^ crc32 B ^^^ crc32 C) ∧
  (∀ A B : List Byte, A.length = B.length →
    crc32 (xorMsg A B) = crc32 A ^^^ crc32 B ^^^ crc32 (List.replicate A.length 0x00#8))

/-- 40_update.md section 8 (the spec derives it there): messages of one length that differ, and differ only inside a
window of at most four consecutive bytes, have different checksums. -/
def Obligations.DetectsChangesInAFourByteWindow : Prop :=
  ∀ A W W' B : List Byte, W.length = W'.length → W.length ≤ 4 → W ≠ W' →
    crc32 (A ++ W ++ B) ≠ crc32 (A ++ W' ++ B)

/-- 40_update.md section 8: the spec's examples of what is not detected. -/
def Obligations.SpecCollisions : Prop :=
  crc32 [0x00#8, 0x00#8, 0x00#8, 0x00#8, 0x00#8] = 0xC622F71D#32 ∧
  crc32 [0x01#8, 0x96#8, 0x30#8, 0x07#8, 0x77#8] = 0xC622F71D#32 ∧
  crc32 [0xFF#8, 0xFF#8, 0xFF#8, 0xFF#8] = 0xFFFFFFFF#32 ∧
  crc32 [0xFF#8, 0xFF#8, 0xFF#8, 0xFF#8, 0x00#8] = 0xFFFFFFFF#32

/-- 40_update.md section 8 (the spec derives it there): a message followed by its own checksum, least significant byte
first, leaves the residue, whatever the message. -/
def Obligations.MessageWithItsChecksumLeavesTheResidue : Prop :=
  ∀ m : List Byte, raw (m ++ bytesLE (crc32 m)) = 0xDEBB20E3#32 ∧ crc32 (m ++ bytesLE (crc32 m)) = 0x2144DF1C#32

/-- 40_update.md section 9 (the spec marks it derived): `raw(m)` read from bit 31 down is the remainder of
`M(x) * x^32 + L(x) * x^(8n)` modulo the generator polynomial over GF(2). -/
def Obligations.RawRegisterIsThePolynomialRemainder : Prop :=
  ∀ m : List Byte,
    (((Finset.range (8 * m.length)).sum fun k =>
          if msgBit m k = true then (Polynomial.X : Polynomial (ZMod 2)) ^ (8 * m.length - 1 - k) else 0)
        * Polynomial.X ^ 32
      + ((Finset.range 32).sum fun i => (Polynomial.X : Polynomial (ZMod 2)) ^ i) * Polynomial.X ^ (8 * m.length)) %ₘ
      (Polynomial.X ^ 32 + Polynomial.X ^ 26 + Polynomial.X ^ 23 + Polynomial.X ^ 22 + Polynomial.X ^ 16
        + Polynomial.X ^ 12 + Polynomial.X ^ 11 + Polynomial.X ^ 10 + Polynomial.X ^ 8 + Polynomial.X ^ 7
        + Polynomial.X ^ 5 + Polynomial.X ^ 4 + Polynomial.X ^ 2 + Polynomial.X + 1)
    = (Finset.range 32).sum fun i =>
        if (raw m).getLsbD i = true then (Polynomial.X : Polynomial (ZMod 2)) ^ (31 - i) else 0

/-- 40_update.md section 7 (the spec derives it there): every 32-bit value is a reachable value of `acc`, and no state
of the block is unreachable: from any state there are inputs that lead to it. -/
def Obligations.EveryBlockStateIsReachable : Prop :=
  ∀ (s : State) (v : Word) (e : Bool), ∃ (ps : List Pins) (t : State),
    runSteps ps.length (present ps s) = .next t ∧ t.acc = v ∧ t.err = e

/-- 10_state.md section 2 (the spec derives it there): a block that stores the finalised value shows the same outputs.
At every state the two blocks show the same pair `(crc, err)`; every edge with a definite input, whatever it is, keeps
them in step; and UPD at `err = 0` is the identity the spec gives on `crc`. -/
def Obligations.FinalisedStorageShowsTheSameOutputs : Prop :=
  (∀ s : State, out s = finalOut (finalise s)) ∧
  (∀ (s : State) (p : Pins), presented s = some p →
    ∃ t, step s = .next t ∧ finalise t = finalStep p (finalise s) ∧ out t = finalOut (finalStep p (finalise s))) ∧
  (∀ (d : Byte) (s : State), s.err = false →
    ∃ t, exec (.upd d) s = .next t ∧
      (out t).crc = step8 ((out s).crc ^^^ 0xFFFFFFFF#32) d ^^^ 0xFFFFFFFF#32)

/-! The faulted condition -/

/-- 60_exceptions.md section 2 (the spec derives it there): in the faulted condition the outputs are `crc = 0`,
`err = 1`; UPD, NOP and ABORT change nothing; only INIT or reset leaves it, with a new, empty message. -/
def Obligations.OnlyInitOrResetLeavesTheFault : Prop :=
  ∀ (s : State) (p : Pins), s.err = true → presented s = some p →
    out s = ⟨0x00000000#32, true⟩ ∧
    (startsRun p = false → step s = .next (advance s)) ∧
    (startsRun p = true → step s = .next { advance s with acc := 0xFFFFFFFF#32, err := false })

/-- 41_control.md R55 corner case c: after an ABORT the kept `acc` can be neither observed nor used. Two states that
differ at most in `acc` while `err = 1` show the same outputs, and every step keeps them so. -/
def Obligations.AbortedAccumulatorIsUnobservable : Prop :=
  ∀ s t : State, SameView s t →
    out s = out t ∧
    ((∃ s' t', step s = .next s' ∧ step t = .next t' ∧ SameView s' t') ∨
      (step s = .refused .indefiniteInput ∧ step t = .refused .indefiniteInput))

/-! The host's text -/

/-- R7: `hex8(v)` is 8 characters, the k-th the upper-case digit of `v[31-4k : 28-4k]`; the text loses nothing. -/
def Obligations.HexTextIsEightUpperCaseDigits : Prop :=
  (∀ v : Word, (hex8 v).length = 8 ∧
    ∀ k : Nat, k < 8 → (hex8 v)[k]? =
      some ((['0', '1', '2', '3', '4', '5', '6', '7', '8', '9', 'A', 'B', 'C', 'D', 'E', 'F'] : List Char).getD
        (v.extractLsb' (28 - 4 * k) 4).toNat '?')) ∧
  hex8 0x0000BEEF#32 = ['0', '0', '0', '0', 'B', 'E', 'E', 'F'] ∧
  (∀ v w : Word, hex8 v = hex8 w → v = w)

/-- R36: the expansion of every pseudo-instruction; SAMPLE takes no edge and records the outputs as they stand. -/
def Obligations.PseudoInstructionsExpand : Prop :=
  expandLine (.rst 1) = [⟨true, 0b00#2, 0x00#8⟩] ∧
  (∀ n, 1 ≤ n → expandLine (.rst n) = List.replicate n ⟨true, 0b00#2, 0x00#8⟩) ∧
  (∀ n, expandLine (.idle n) = List.replicate n (commandPins .nop)) ∧
  (∀ text : Text, expandLine (.msg text) = text.map fun c => commandPins (.upd (BitVec.ofNat 8 c.toNat))) ∧
  (∀ bs : List Byte, expandLine (.bytes bs) = bs.map fun b => commandPins (.upd b)) ∧
  (∀ v : Word, expandLine (.crcle v) =
    [commandPins (.upd (v.extractLsb' 0 8)), commandPins (.upd (v.extractLsb' 8 8)),
      commandPins (.upd (v.extractLsb' 16 8)), commandPins (.upd (v.extractLsb' 24 8))]) ∧
  (∀ (name : Text) (ls : List Line) (s : State),
    expandLine (.sample name) = [] ∧ runListing (.sample name :: ls) s = (name, out s) :: runListing ls s)

/-- 30_encoding.md section 6: what the disassembler prints for a word, the assembler reads back as the command the word
decodes to; and `RST 0` is a line that takes no edge. (The reading of white space and digits, the printed form of a byte
and `RST 0` are the model's choices, log entry 4.) -/
def Obligations.AssemblerReadsTheDisassembly : Prop :=
  (∀ w : CommandWord, parseLine (disassemble w) = some (.command (decode w))) ∧
  lineWellFormed (.rst 0) = true ∧ expandLine (.rst 0) = []

/-- 95_test_vectors.md: V4 (the check value), V20 (the trace of one byte, which fixes the bit order), V41, V42, and the
residue that P4 gives for the message "a". -/
def Obligations.SpecVectors : Prop :=
  crc32 [0x31#8, 0x32#8, 0x33#8, 0x34#8, 0x35#8, 0x36#8, 0x37#8, 0x38#8, 0x39#8] = checkValue ∧
  step1 0xFFFFFFFF#32 true = 0x7FFFFFFF#32 ∧ step1 0x7FFFFFFF#32 false = 0xD2477CDF#32 ∧
  step1 0xD2477CDF#32 false = 0x849B3D4F#32 ∧ step1 0x849B3D4F#32 false = 0xAFF51D87#32 ∧
  step1 0xAFF51D87#32 true = 0x57FA8EC3#32 ∧ step1 0x57FA8EC3#32 true = 0x2BFD4761#32 ∧
  step1 0x2BFD4761#32 false = 0xF8462090#32 ∧ step1 0xF8462090#32 false = 0x7C231048#32 ∧
  step8 0xFFFFFFFF#32 0x31#8 = 0x7C231048#32 ∧
  step8 0xDEADBEEF#32 0x5A#8 = 0xBBD5EABD#32 ∧ step8 0x12345678#32 0x9A#8 = 0x4E16B702#32 ∧
  raw [0x61#8, 0x43#8, 0xBE#8, 0xB7#8, 0xE8#8] = residue
end

