-- ==== Sys2Proof/Laws/State.lean ====
section
/-! SUPPORT. What each operation over the state does to each field: one lemma per field per operation. -/

namespace Sys2Proof.Laws

open Sys2Proof.Machine

@[simp] theorem writeAcc_acc (v : Word) (s : State) : (writeAcc v s).acc = v := rfl
@[simp] theorem writeAcc_err (v : Word) (s : State) : (writeAcc v s).err = s.err := rfl
@[simp] theorem writeAcc_stream (v : Word) (s : State) : (writeAcc v s).stream = s.stream := rfl
@[simp] theorem writeAcc_edge (v : Word) (s : State) : (writeAcc v s).edge = s.edge := rfl

@[simp] theorem setErr_acc (s : State) : (setErr s).acc = s.acc := rfl
@[simp] theorem setErr_err (s : State) : (setErr s).err = true := rfl
@[simp] theorem setErr_stream (s : State) : (setErr s).stream = s.stream := rfl
@[simp] theorem setErr_edge (s : State) : (setErr s).edge = s.edge := rfl

@[simp] theorem clearErr_acc (s : State) : (clearErr s).acc = s.acc := rfl
@[simp] theorem clearErr_err (s : State) : (clearErr s).err = false := rfl
@[simp] theorem clearErr_stream (s : State) : (clearErr s).stream = s.stream := rfl
@[simp] theorem clearErr_edge (s : State) : (clearErr s).edge = s.edge := rfl

@[simp] theorem fresh_acc (s : State) : (fresh s).acc = 0xFFFFFFFF#32 := rfl
@[simp] theorem fresh_err (s : State) : (fresh s).err = false := rfl
@[simp] theorem fresh_stream (s : State) : (fresh s).stream = s.stream := rfl
@[simp] theorem fresh_edge (s : State) : (fresh s).edge = s.edge := rfl

@[simp] theorem foldByte_acc (d : Byte) (s : State) : (foldByte d s).acc = step8 s.acc d := rfl
@[simp] theorem foldByte_err (d : Byte) (s : State) : (foldByte d s).err = s.err := rfl
@[simp] theorem foldByte_stream (d : Byte) (s : State) : (foldByte d s).stream = s.stream := rfl
@[simp] theorem foldByte_edge (d : Byte) (s : State) : (foldByte d s).edge = s.edge := rfl

@[simp] theorem raiseStreamAbort_acc (s : State) : (raiseStreamAbort s).acc = s.acc := rfl
@[simp] theorem raiseStreamAbort_err (s : State) : (raiseStreamAbort s).err = true := rfl
@[simp] theorem raiseStreamAbort_stream (s : State) : (raiseStreamAbort s).stream = s.stream := rfl
@[simp] theorem raiseStreamAbort_edge (s : State) : (raiseStreamAbort s).edge = s.edge := rfl

@[simp] theorem advance_acc (s : State) : (advance s).acc = s.acc := rfl
@[simp] theorem advance_err (s : State) : (advance s).err = s.err := rfl
@[simp] theorem advance_stream (s : State) : (advance s).stream = s.stream.tail := rfl
@[simp] theorem advance_edge (s : State) : (advance s).edge = s.edge + 1 := rfl

@[simp] theorem present_acc (ps : List Pins) (s : State) : (present ps s).acc = s.acc := rfl
@[simp] theorem present_err (ps : List Pins) (s : State) : (present ps s).err = s.err := rfl
@[simp] theorem present_stream (ps : List Pins) (s : State) : (present ps s).stream = ps.map drive ++ s.stream := rfl
@[simp] theorem present_edge (ps : List Pins) (s : State) : (present ps s).edge = s.edge := rfl

@[simp] theorem replaceNext_acc (x : Sample) (s : State) : (replaceNext x s).acc = s.acc := rfl
@[simp] theorem replaceNext_err (x : Sample) (s : State) : (replaceNext x s).err = s.err := rfl
@[simp] theorem replaceNext_stream (x : Sample) (s : State) : (replaceNext x s).stream = x :: s.stream.tail := rfl
@[simp] theorem replaceNext_edge (x : Sample) (s : State) : (replaceNext x s).edge = s.edge := rfl

@[simp] theorem resetEdge_acc (s : State) : (resetEdge s).acc = 0xFFFFFFFF#32 := rfl
@[simp] theorem resetEdge_err (s : State) : (resetEdge s).err = false := rfl
@[simp] theorem resetEdge_stream (s : State) : (resetEdge s).stream = s.stream := rfl
@[simp] theorem resetEdge_edge (s : State) : (resetEdge s).edge = s.edge := rfl

/-- The outputs in the faulted condition (60_exceptions.md R62). -/
theorem out_of_err {s : State} (h : s.err = true) : out s = ⟨0x00000000#32, true⟩ := by
  simp [out, crcPin, h]

/-- The outputs while no message has failed (10_state.md R13). -/
theorem out_of_not_err {s : State} (h : s.err = false) : out s = ⟨s.acc ^^^ xorOut, false⟩ := by
  simp [out, crcPin, h]

/-- Reset and INIT share one operation (70_reset_and_hazards.md R72). -/
theorem resetEdge_eq_fresh (s : State) : resetEdge s = fresh s := rfl

end Sys2Proof.Laws
end

