-- ==== Sys2Proof/Laws/Ops.lean ====
section
/-! SUPPORT. One lemma for each shared operation, saying all it can do: reading the pins, the input at an edge, the
commands, and a rising edge. -/

namespace Sys2Proof.Laws

open Sys2Proof.Machine

@[simp] theorem levelBit_bitLevel (b : Bool) : levelBit (bitLevel b) = some b := by
  cases b <;> rfl

theorem levelBit_eq_none {l : Level} : levelBit l = none ↔ l = .unknown := by
  cases l <;> simp [levelBit]

/-- Levels that show a vector read back as that vector. -/
@[simp] theorem levelsWord_wordLevels {n : Nat} (w : BitVec n) : levelsWord (wordLevels w) = some w := by
  have all : (wordLevels w).toList.all (fun l => (levelBit l).isSome) = true := by
    simp [wordLevels, List.all_eq_true, Vector.toList_ofFn, List.mem_ofFn]
  rw [levelsWord, if_pos all]
  congr 1
  ext i hi
  simp [wordLevels]

/-- Levels read as no vector exactly if one of them is not definite (R75). -/
theorem levelsWord_eq_none {n : Nat} {v : Vector Level n} :
    levelsWord v = none ↔ ∃ i : Fin n, v[i] = .unknown := by
  unfold levelsWord
  split
  · rename_i h
    simp only [reduceCtorEq, false_iff, not_exists]
    intro i hi
    have := List.all_eq_true.mp h v[i] (by simp)
    simp [hi, levelBit] at this
  · rename_i h
    simp only [true_iff]
    by_contra hne
    apply h
    rw [List.all_eq_true]
    intro l hl
    obtain ⟨k, hk, rfl⟩ := List.getElem_of_mem hl
    have hk' : k < n := by simpa using hk
    have : levelBit v[k] ≠ none := fun he => hne ⟨⟨k, hk'⟩, levelBit_eq_none.mp he⟩
    simpa [Option.isSome_iff_ne_none] using this

/-- A driven input reads back as itself. -/
@[simp] theorem readSample_drive (p : Pins) : readSample (drive p) = some p := by
  simp [readSample, drive]

/-- A sample shows no definite input exactly if one of its 11 pins is not definite (R75). -/
theorem readSample_eq_none {x : Sample} :
    readSample x = none ↔
      x.rst = .unknown ∨ (∃ i : Fin 2, x.cmd[i] = .unknown) ∨ ∃ i : Fin 8, x.data[i] = .unknown := by
  rw [← levelBit_eq_none, ← levelsWord_eq_none, ← levelsWord_eq_none]
  unfold readSample
  cases levelBit x.rst <;> cases levelsWord x.cmd <;> cases levelsWord x.data <;> simp

/-- The fields of a command word put together again are the word (R31). -/
@[simp] theorem pinsWord_wordPins (w : CommandWord) : pinsWord (wordPins w) = w := by
  simp only [pinsWord, wordPins, cmdField, dataField]
  ext i hi
  simp only [BitVec.getElem_append, BitVec.getElem_extractLsb']
  split
  · simp [BitVec.getLsbD_eq_getElem hi]
  · rw [show 8 + (i - 8) = i by omega, BitVec.getLsbD_eq_getElem hi]

@[simp] theorem wordPins_rst (w : CommandWord) : (wordPins w).rst = false := rfl

@[simp] theorem commandPins_rst (i : Instr) : (commandPins i).rst = false := rfl

@[simp] theorem pinsWord_commandPins (i : Instr) : pinsWord (commandPins i) = encode i :=
  pinsWord_wordPins _

theorem presented_nil {s : State} (h : s.stream = []) :
    presented s = some (pinsOfBits (Config.freeInput s.edge)) := by
  simp [presented, h]

theorem presented_cons {s : State} {x : Sample} {xs : List Sample} (h : s.stream = x :: xs) :
    presented s = readSample x := by
  simp [presented, h]

@[simp] theorem presented_present_cons (p : Pins) (ps : List Pins) (s : State) :
    presented (present (p :: ps) s) = some p := by
  simp [presented]

@[simp] theorem present_nil (s : State) : present [] s = s := by
  simp [present]

/-- After the first input laid out is used up, the rest is laid out one edge later. -/
@[simp] theorem advance_present_cons (p : Pins) (ps : List Pins) (s : State) :
    advance (present (p :: ps) s) = present ps { s with edge := s.edge + 1 } := rfl

/-- What UPD can do (R42). -/
theorem execUpd_eq (d : Byte) (s : State) :
    execUpd d s = .next (if s.err then s else foldByte d s) := by
  unfold execUpd
  cases h : s.err <;> simp [h]

/-- Every command ends in a next state that keeps the host's side: no command stops (R34, R61, R69). -/
theorem exec_next (i : Instr) (s : State) :
    ∃ t, exec i s = .next t ∧ t.stream = s.stream ∧ t.edge = s.edge := by
  cases i with
  | nop => exact ⟨s, rfl, rfl, rfl⟩
  | upd d => exact ⟨_, execUpd_eq d s, by split <;> simp, by split <;> simp⟩
  | init => exact ⟨fresh s, rfl, rfl, rfl⟩
  | abort => exact ⟨raiseStreamAbort s, rfl, rfl, rfl⟩

/-- Every definite input, in every state, has a next state that keeps the host's side (R32). -/
theorem edgeStep_next (p : Pins) (s : State) :
    ∃ t, edgeStep p s = .next t ∧ t.stream = s.stream ∧ t.edge = s.edge := by
  unfold edgeStep
  split
  · exact ⟨resetEdge s, rfl, rfl, rfl⟩
  · exact exec_next _ s

/-- The command that `cmd` and `data` on the pins select (R31, R32). -/
theorem decode_append (c : CommandCode) (d : Byte) :
    decode (c ++ d) =
      if c = 0b00#2 then .nop else if c = 0b01#2 then .upd d else if c = 0b10#2 then .init else .abort := by
  revert c d
  decide

/-- All a rising edge with a definite input can do (R32, R42, R53 to R55, R70). -/
theorem edgeStep_eq (p : Pins) (s : State) :
    edgeStep p s = .next (
      if p.rst then fresh s
      else if p.cmd = 0b00#2 then s
      else if p.cmd = 0b01#2 then (if s.err then s else foldByte p.data s)
      else if p.cmd = 0b10#2 then fresh s
      else raiseStreamAbort s) := by
  unfold edgeStep
  rw [pinsWord, decode_append]
  split
  · rfl
  · split
    · rfl
    · split
      · exact execUpd_eq p.data s
      · split <;> rfl

/-- A step with a definite input is the block's step after the sample is used up. -/
theorem step_of_presented {s : State} {p : Pins} (h : presented s = some p) :
    step s = edgeStep p (advance s) := by
  simp [step, clockEdge, h]

/-- A step with no definite input is refused (R75). -/
theorem step_of_indefinite {s : State} (h : presented s = none) :
    step s = .refused .indefiniteInput := by
  simp [step, clockEdge, h]

/-- The run of the model is the run of the host's interface. -/
theorem runSteps_eq_core_run (n : Nat) (s : State) : runSteps n s = Host.Core.run Sys2Proof.core n s := by
  induction n generalizing s with
  | zero => rfl
  | succ n ih =>
    simp only [runSteps, Host.Core.run]
    cases h : step s with
    | next t => simp [Sys2Proof.core, h] at ih ⊢; exact ih t
    | fault r => cases r
    | refused r => simp [Sys2Proof.core, h]

/-- What an edge leaves still has the rest of the inputs laid out. -/
theorem runSteps_present_cons (n : Nat) (p : Pins) (ps : List Pins) (s : State) :
    ∃ t, edgeStep p { s with edge := s.edge + 1 } = .next t ∧ t.stream = s.stream ∧ t.edge = s.edge + 1 ∧
      runSteps (n + 1) (present (p :: ps) s) = runSteps n (present ps t) := by
  obtain ⟨t, ht, hst, he⟩ := edgeStep_next p { s with edge := s.edge + 1 }
  refine ⟨t, ht, hst, he, ?_⟩
  have moved : edgeStep p (present ps { s with edge := s.edge + 1 }) = .next (present ps t) := by
    rw [edgeStep_eq] at ht ⊢
    simp only [Host.Outcome.next.injEq] at ht ⊢
    subst ht
    cases p.rst <;> cases s.err <;> simp only [present, Bool.false_eq_true, ↓reduceIte]
    all_goals (repeat' split)
    all_goals rfl
  simp only [runSteps]
  rw [step_of_presented (presented_present_cons p ps s), advance_present_cons, moved]

/-- A run over inputs that are laid out ends in a next state, the host's later inputs untouched (R28). -/
theorem runSteps_present_next (ps : List Pins) (s : State) :
    ∃ t, runSteps ps.length (present ps s) = .next t ∧ t.stream = s.stream ∧ t.edge = s.edge + ps.length := by
  induction ps generalizing s with
  | nil => exact ⟨s, rfl, rfl, rfl⟩
  | cons p ps ih =>
    obtain ⟨t, _, hst, he, hrun⟩ := runSteps_present_cons ps.length p ps s
    obtain ⟨u, hu, hus, hue⟩ := ih t
    exact ⟨u, hrun.trans hu, hus.trans hst, by rw [hue, he, List.length_cons]; omega⟩

end Sys2Proof.Laws
end

