-- ==== Sys2Proof/Laws/PerInstr.lean ====
section
/-! SUPPORT. Statements for all commands, one lemma per constructor. -/

namespace Sys2Proof.Laws.EncodeRow

/-- A command is well formed, and its canonical word selects its own row of R32's table. -/
def Statement (i : Instr) : Prop :=
  i.wellFormed = true ∧ (opcodeRow i).selects (encode i) = true

theorem nop : Statement .nop := by unfold Statement; decide

theorem upd (data : Byte) : Statement (.upd data) := by
  unfold Statement
  revert data
  decide

theorem init : Statement .init := by unfold Statement; decide

theorem abort : Statement .abort := by unfold Statement; decide

end Sys2Proof.Laws.EncodeRow
end

