-- ==== Sys2Proof/Tests/Slice0.lean ====
section
/-! SUPPORT. Tests on small states, each expected value from the spec (95_test_vectors.md unless said otherwise), and
for each statement with hypotheses a state and operands that meet them (test_hyp_…). -/

namespace Sys2Proof.Tests

open Sys2Proof.Machine

/-- A block state before the first line of a vector, with the inputs of the edges to come. -/
def start (acc : Word) (err : Bool) (ps : List Pins) : State :=
  present ps { acc := acc, err := err, stream := [], edge := 0 }

/-- `(acc, err)` and the outputs after `n` edges, if there is a next state. -/
def after (n : Nat) (s : State) : Option (Word × Bool × Outputs) :=
  match runSteps n s with
  | .next t => some (t.acc, t.err, out t)
  | .fault _ => none
  | .refused _ => none

/-- Whether a step is refused for its input. -/
def refusesInput (s : State) : Bool :=
  match step s with
  | .refused .indefiniteInput => true
  | _ => false

/-! Well-formedness (R31, R34, R36) -/

theorem test_wellformed_command : Instr.wellFormed (.upd 0xFF#8) = true := by decide
theorem test_illformed_pattern : isCommandPattern 0x3FF = true ∧ isCommandPattern 0x400 = false := by decide
theorem test_illformed_msg : lineWellFormed (.msg [Char.ofNat 127]) = true ∧ lineWellFormed (.msg [Char.ofNat 128]) = false := by
  decide
theorem test_illformed_bytes : lineWellFormed (.bytes [0x00#8]) = true ∧ lineWellFormed (.bytes []) = false := by decide

/-! Decoding: words written out from R32's patterns, bit 9 first -/

theorem test_decode_nop : decode 0b0000000000#10 = .nop ∧ decode 0b0011111111#10 = .nop := by decide
theorem test_decode_upd : decode 0b0100110001#10 = .upd 0x31#8 ∧ decode 0b0110000001#10 = .upd 0x81#8 := by decide
theorem test_decode_init : decode 0b1000000000#10 = .init ∧ decode 0b1010100101#10 = .init := by decide
theorem test_decode_abort : decode 0b1100000000#10 = .abort ∧ decode 0b1111000011#10 = .abort := by decide
theorem test_encode : encode .nop = 0x000#10 ∧ encode (.upd 0x31#8) = 0x131#10 ∧ encode .init = 0x200#10 ∧
    encode .abort = 0x300#10 := by decide
theorem test_decode_rejects : decodeBits 0x400 = .error (.notACommandWord 0x400) := by rfl
theorem test_table_word : decodeTableWord 16 0x1FF = some (.upd 0xFF#8) ∧ decodeTableWord 16 0x400 = none := by decide
/-- The rows of R32's table do not overlap. -/
theorem test_rows_disjoint : [opcodeRow .nop, opcodeRow (.upd 0), opcodeRow .init, opcodeRow .abort].Pairwise
    fun r q => ∀ w : CommandWord, (r.selects w && q.selects w) = false := by decide

/-! The commands (section 2.6) -/

theorem test_nop_V45g : after 1 (start 0x7C231048#32 false [⟨false, 0b00#2, 0xFF#8⟩]) =
    some (0x7C231048#32, false, ⟨0x83DCEFB7#32, false⟩) := by decide
theorem test_nop_V45h : after 1 (start 0x7C231048#32 true [⟨false, 0b00#2, 0x00#8⟩]) =
    some (0x7C231048#32, true, ⟨0x00000000#32, true⟩) := by decide
theorem test_upd_V45d : after 1 (start 0x174841BC#32 false [⟨false, 0b01#2, 0x61#8⟩]) =
    some (0xF875E628#32, false, ⟨0x078A19D7#32, false⟩) := by decide
theorem test_upd_V45c : after 1 (start 0x174841BC#32 true [⟨false, 0b01#2, 0x62#8⟩]) =
    some (0x174841BC#32, true, ⟨0x00000000#32, true⟩) := by decide
theorem test_init_V45i : after 1 (start 0x340BC6D9#32 true [⟨false, 0b10#2, 0x00#8⟩]) =
    some (0xFFFFFFFF#32, false, ⟨0x00000000#32, false⟩) := by decide
theorem test_init_V45j : after 1 (start 0x7C231048#32 false [⟨false, 0b10#2, 0xA5#8⟩]) =
    some (0xFFFFFFFF#32, false, ⟨0x00000000#32, false⟩) := by decide
theorem test_abort_V45m : after 1 (start 0x7C231048#32 false [⟨false, 0b11#2, 0xC3#8⟩]) =
    some (0x7C231048#32, true, ⟨0x00000000#32, true⟩) := by decide
theorem test_abort_V45n : after 1 (start 0x7C231048#32 true [⟨false, 0b11#2, 0x00#8⟩]) =
    some (0x7C231048#32, true, ⟨0x00000000#32, true⟩) := by decide
theorem test_reset_V45p : after 1 (start 0x7C231048#32 false [⟨true, 0b11#2, 0x55#8⟩]) =
    some (0xFFFFFFFF#32, false, ⟨0x00000000#32, false⟩) := by decide
theorem test_reset_V45q : after 1 (start 0x7C231048#32 true [⟨true, 0b01#2, 0x31#8⟩]) =
    some (0xFFFFFFFF#32, false, ⟨0x00000000#32, false⟩) := by decide
/-- The first step after reset runs the word placed for it (V45a). -/
theorem test_first_step_runs_placed_word : after 1 (State.reset.withFetchWord 16 0x131) =
    some (0x7C231048#32, false, ⟨0x83DCEFB7#32, false⟩) := by decide
/-- An ignored `data` pin that is not definite is refused too (R75). -/
theorem test_indefinite_data_refused :
    refusesInput { State.reset with
      stream := [⟨.low, Vector.replicate 2 .low, Vector.ofFn fun i => if i = 7 then .unknown else .low⟩] } = true := by
  decide

/-! The arithmetic (sections 2.1 and 2.4) -/

theorem test_step1_V32_V33 : step1 0xEDB88320#32 false = 0x76DC4190#32 ∧ step1 0xEDB88320#32 true = 0x9B64C2B0#32 := by decide
theorem test_step8_V36_V40 : step8 0x00000000#32 0x80#8 = 0xEDB88320#32 ∧ step8 0x80000000#32 0x00#8 = 0x00800000#32 := by decide
theorem test_unstep1_V28 : unstep1 0x92477CDF#32 false = 0xFFFFFFFF#32 := by decide
theorem test_table_V41 : step8Table 0xDEADBEEF#32 0x5A#8 = 0xBBD5EABD#32 := by decide
theorem test_parallel_V41 : step8Parallel 0xDEADBEEF#32 0x5A#8 = 0xBBD5EABD#32 := by decide +kernel
theorem test_parallel_V42 : step8Parallel 0x12345678#32 0x9A#8 = 0x4E16B702#32 := by decide +kernel
theorem test_crc32_V11 : crc32 [0x6D#8, 0x65#8, 0x73#8, 0x73#8, 0x61#8, 0x67#8, 0x65#8, 0x20#8, 0x64#8, 0x69#8, 0x67#8, 0x65#8,
    0x73#8, 0x74#8] = 0x20159D7F#32 := by decide +kernel
theorem test_crc32_V16 : crc32 ((List.range 32).map (BitVec.ofNat 8)) = 0x91267E8A#32 := by decide +kernel

/-- UPD '2' over the finalised value (table of section 2.2). -/
theorem test_finalised_upd : finalStep (commandPins (.upd 0x32#8)) ⟨0x83DCEFB7#32, false⟩ = ⟨0x4F5344CD#32, false⟩ := by decide

/-! The host's text (R7, R35, R36; P3) -/

theorem test_hex8 : hex8 0xCBF43926#32 = ['C', 'B', 'F', '4', '3', '9', '2', '6'] := by decide
theorem test_parse_upd : parseLine ['L', ':', ' ', 'U', 'P', 'D', ' ', quoteChar, '1', quoteChar, ' ', ';', 'x'] =
    some (.command (.upd 0x31#8)) := by rfl
theorem test_parse_crcle : parseLine ['C', 'R', 'C', 'L', 'E', ' ', '0', 'x', 'C', 'B', 'F', '4', '3', '9', '2', '6'] =
    some (.crcle 0xCBF43926#32) := by rfl
theorem test_parse_msg : parseLine ['M', 'S', 'G', ' ', stringChar, 'a', ';', stringChar] = some (.msg ['a', ';']) := by rfl
theorem test_parse_rejects : parseLine ['u', 'p', 'd', ' ', '0', 'x', '3', '1'] = none := by rfl
theorem test_crcle_order : expandLine (.crcle 0xCBF43926#32) = updPins [0x26#8, 0x39#8, 0xF4#8, 0xCB#8] := by rfl
/-- P3, lines 1 to 3: no partial checksum is shown after ABORT. -/
theorem test_listing_P3 : runListing [.command .init, .command (.upd 0x61#8), .sample ['x'], .command .abort, .sample ['y']]
    State.reset = [(['x'], ⟨0xE8B7BE43#32, false⟩), (['y'], ⟨0x00000000#32, true⟩)] := by rfl

/-! States and operands that meet the statements' hypotheses -/

/-- EveryWordIsLegal: a code that ignores `data`. -/
theorem test_hyp_EveryWordIsLegal : (0b00#2 : CommandCode) ≠ 0b01#2 ∧ (0b11#2 : CommandCode) ≠ 0b01#2 := by decide
/-- StepRunsTheDecodedCommand: an edge with `rst = 0`; the largest word that can be placed. -/
theorem test_hyp_StepRunsTheDecodedCommand :
    presented (start 0#32 false [⟨false, 0b01#2, 0x31#8⟩]) = some ⟨false, 0b01#2, 0x31#8⟩ ∧
    0x3FF < 2 ^ 16 ∧ 0x3FF < 2 ^ 10 := by decide
/-- StepDispatchesOnResetThenCommand, each of the five clauses. -/
theorem test_hyp_StepDispatchesOnResetThenCommand :
    ∀ (r : Bool) (c : CommandCode), presented (start 0#32 true [⟨r, c, 0x00#8⟩]) = some ⟨r, c, 0x00#8⟩ := by decide
/-- UpdFoldsOneByte: UPD at the edge with `err` 0 and 1, and the state of the worked example. -/
theorem test_hyp_UpdFoldsOneByte :
    (∀ e, presented (start 0#32 e [⟨false, 0b01#2, 0xFF#8⟩]) = some ⟨false, 0b01#2, 0xFF#8⟩) ∧
    State.reset.acc = 0xFFFFFFFF#32 ∧ State.reset.err = false := by decide
/-- NopChangesNothing: NOP at the edge. -/
theorem test_hyp_NopChangesNothing :
    presented (start 0#32 true [⟨false, 0b00#2, 0xFF#8⟩]) = some ⟨false, 0b00#2, 0xFF#8⟩ := by decide
/-- InitStartsANewMessage: INIT at the edge, and INIT's next state. -/
theorem test_hyp_InitStartsANewMessage :
    presented (start 0#32 true [⟨false, 0b10#2, 0xA5#8⟩]) = some ⟨false, 0b10#2, 0xA5#8⟩ ∧
    exec .init (start 0#32 true []) = .next (fresh (start 0#32 true [])) := ⟨by decide, rfl⟩
/-- AbortFailsTheMessage: ABORT at the edge, and inputs after it that begin no run. -/
theorem test_hyp_AbortFailsTheMessage :
    presented (start 0#32 false [⟨false, 0b11#2, 0x00#8⟩]) = some ⟨false, 0b11#2, 0x00#8⟩ ∧
    ∀ p ∈ ([⟨false, 0b01#2, 0x31#8⟩, ⟨false, 0b00#2, 0x00#8⟩, ⟨false, 0b11#2, 0xFF#8⟩] : List Pins), startsRun p = false := by
  decide
/-- OnlyAbortRaisesStreamAbort: an edge with ABORT, and one with reset over it, where `err` is 0. -/
theorem test_hyp_OnlyAbortRaisesStreamAbort : ∀ r,
    presented (start 0#32 false [⟨r, 0b11#2, 0x00#8⟩]) = some ⟨r, 0b11#2, 0x00#8⟩ ∧
    (start 0#32 false [⟨r, 0b11#2, 0x00#8⟩]).err = false := by decide
/-- ResetEdgeLoadsTheResetValues: an edge with `rst` 1 and one with `rst` 0. -/
theorem test_hyp_ResetEdgeLoadsTheResetValues : ∀ r,
    presented (start 0x12345678#32 true [⟨r, 0b01#2, 0x31#8⟩]) = some ⟨r, 0b01#2, 0x31#8⟩ := by decide
/-- ResetHasPriorityAndLaterCommandWins: reset with ABORT on the pins. -/
theorem test_hyp_ResetHasPriorityAndLaterCommandWins :
    presented (start 0x7C231048#32 false [⟨true, 0b11#2, 0x55#8⟩]) = some ⟨true, 0b11#2, 0x55#8⟩ := by decide
/-- InitAndResetHaveOneEffect and OneFreshEdgeEndsPowerUp: the edges that begin a run. -/
theorem test_hyp_startsRun :
    startsRun ⟨true, 0b11#2, 0x55#8⟩ = true ∧ startsRun ⟨false, 0b10#2, 0xA5#8⟩ = true ∧ startsRun rstPins = true := by decide
/-- CommandsWriteOnlyTheirElements: a command that changes both elements. -/
theorem test_hyp_CommandsWriteOnlyTheirElements :
    exec .init (start 0#32 true []) = .next (fresh (start 0#32 true [])) ∧
    (fresh (start 0#32 true [])).acc ≠ (start 0#32 true []).acc ∧
    (fresh (start 0#32 true [])).err ≠ (start 0#32 true []).err := ⟨rfl, by decide, by decide⟩
/-- OutputsAreFunctionsOfAccAndErr: two states alike in `acc` and `err` alone. -/
theorem test_hyp_OutputsAreFunctionsOfAccAndErr :
    (start 0#32 false [rstPins]).acc = (start 0#32 false []).acc ∧ (start 0#32 false [rstPins]).err = (start 0#32 false []).err ∧
    start 0#32 false [rstPins] ≠ start 0#32 false [] := by decide
/-- StepRefusesExactlyIndefiniteInputs: a pin of each kind that is not definite, and a definite sample. -/
theorem test_hyp_StepRefusesExactlyIndefiniteInputs :
    readSample ⟨.unknown, Vector.replicate 2 .low, Vector.replicate 8 .low⟩ = none ∧
    readSample ⟨.low, Vector.ofFn fun i => if i = 1 then .unknown else .low, Vector.replicate 8 .low⟩ = none ∧
    readSample ⟨.low, Vector.replicate 2 .low, Vector.ofFn fun i => if i = 0 then .unknown else .low⟩ = none ∧
    readSample ⟨.high, Vector.replicate 2 .high, Vector.replicate 8 .high⟩ = some ⟨true, 0b11#2, 0xFF#8⟩ := by decide
/-- EveryCommandTakesOneEdge and ResetHoldsTheEmptyMessage's state: at reset with nothing laid out the input is free. -/
theorem test_hyp_EveryCommandTakesOneEdge :
    presented State.reset = some (pinsOfBits (Config.freeInput 0)) := rfl
/-- EveryStepKeepsTheMessage: a state that holds a message of one byte, and an edge. -/
theorem test_hyp_EveryStepKeepsTheMessage :
    HoldsMessage (start 0x7C231048#32 false [⟨false, 0b01#2, 0x32#8⟩]) [0x31#8] ∧
    presented (start 0x7C231048#32 false [⟨false, 0b01#2, 0x32#8⟩]) = some ⟨false, 0b01#2, 0x32#8⟩ := by
  unfold HoldsMessage
  decide
/-- ResultOfARun: a run with an ABORT in it and one without. -/
theorem test_hyp_ResultOfARun :
    startsRun (commandPins .init) = true ∧
    (∀ p ∈ updPins [0x61#8, 0x62#8], startsRun p = false) ∧ (updPins [0x61#8, 0x62#8]).any isAbort = false ∧
    (∀ p ∈ [commandPins .abort, commandPins (.upd 0x62#8)], startsRun p = false) ∧
    [commandPins .abort, commandPins (.upd 0x62#8)].any isAbort = true := by decide
/-- ComputeChecksumSequence: both ways to begin. -/
theorem test_hyp_ComputeChecksumSequence :
    (commandPins .init = commandPins .init ∨ commandPins .init = rstPins) ∧ (rstPins = commandPins .init ∨ rstPins = rstPins) := by
  decide
/-- ChecksumIsAffine: three messages of one length. -/
theorem test_hyp_ChecksumIsAffine : ([0x01#8, 0x02#8] : List Byte).length = ([0x03#8, 0x04#8] : List Byte).length ∧
    ([0x03#8, 0x04#8] : List Byte).length = ([0x05#8, 0x06#8] : List Byte).length := by decide
/-- DetectsChangesInAFourByteWindow: two windows of the greatest length that differ in one bit. -/
theorem test_hyp_DetectsChangesInAFourByteWindow :
    ([0x00#8, 0x00#8, 0x00#8, 0x00#8] : List Byte).length = ([0x00#8, 0x00#8, 0x00#8, 0x01#8] : List Byte).length ∧
    ([0x00#8, 0x00#8, 0x00#8, 0x00#8] : List Byte).length ≤ 4 ∧
    ([0x00#8, 0x00#8, 0x00#8, 0x00#8] : List Byte) ≠ [0x00#8, 0x00#8, 0x00#8, 0x01#8] := by decide
/-- FinalisedStorageShowsTheSameOutputs: a state with `err = 0`, at an edge with UPD and at one with reset. -/
theorem test_hyp_FinalisedStorageShowsTheSameOutputs :
    (start 0x7C231048#32 false [commandPins (.upd 0x32#8)]).err = false ∧
    presented (start 0x7C231048#32 false [commandPins (.upd 0x32#8)]) = some (commandPins (.upd 0x32#8)) ∧
    presented (start 0x7C231048#32 true [rstPins]) = some rstPins := by decide
/-- PseudoInstructionsExpand: the least count of RST. -/
theorem test_hyp_PseudoInstructionsExpand : 1 ≤ 1 := by decide
/-- OnlyInitOrResetLeavesTheFault: a faulted state at an edge of each kind. -/
theorem test_hyp_OnlyInitOrResetLeavesTheFault :
    (start 0x174841BC#32 true [commandPins (.upd 0x62#8)]).err = true ∧
    presented (start 0x174841BC#32 true [commandPins (.upd 0x62#8)]) = some (commandPins (.upd 0x62#8)) ∧
    startsRun (commandPins (.upd 0x62#8)) = false ∧
    presented (start 0x174841BC#32 true [rstPins]) = some rstPins ∧ startsRun rstPins = true := by decide
/-- AbortedAccumulatorIsUnobservable: two faulted states that differ in `acc`. -/
theorem test_hyp_AbortedAccumulatorIsUnobservable :
    SameView (start 0x00000000#32 true [rstPins]) (start 0x174841BC#32 true [rstPins]) ∧
    start 0x00000000#32 true [rstPins] ≠ start 0x174841BC#32 true [rstPins] := by
  unfold SameView
  decide
/-- HexTextIsEightUpperCaseDigits: two values with one text. -/
theorem test_hyp_HexTextIsEightUpperCaseDigits : hex8 0x0000BEEF#32 = hex8 (0x0000BEE0#32 + 0xF#32) := by decide

end Sys2Proof.Tests
end

section
/-! The text `hex8` of a word (00_scope.md R7): its digits by position, and that they determine the word. -/

namespace Sys2Proof.Proofs
open Sys2Proof.Machine

/-- The digits of R7 in order of value. -/
theorem hexDigit_eq_getD : ∀ v : BitVec 4, hexDigit v =
    (['0', '1', '2', '3', '4', '5', '6', '7', '8', '9', 'A', 'B', 'C', 'D', 'E', 'F'] : List Char).getD v.toNat '?' := by
  decide

theorem hexDigit_injective : Function.Injective hexDigit := by
  unfold Function.Injective
  decide

@[simp] theorem hex8_length (v : Word) : (hex8 v).length = 8 := by
  simp [hex8]

theorem hex8_getElem? (v : Word) {k : Nat} (hk : k < 8) :
    (hex8 v)[k]? = some (hexDigit (v.extractLsb' (28 - 4 * k) 4)) := by
  simp [hex8, hk]

/-- Bit `i` of a word stands at place `i % 4` of its digit `7 - i / 4`, counted from the most significant one. -/
theorem getLsbD_eq_digit_getLsbD (v : Word) {i : Nat} (hi : i < 32) :
    v.getLsbD i = (v.extractLsb' (28 - 4 * (7 - i / 4)) 4).getLsbD (i % 4) := by
  have hplace : 28 - 4 * (7 - i / 4) + i % 4 = i := by omega
  rw [BitVec.getLsbD_extractLsb', hplace]
  simp [Nat.mod_lt]

theorem word_eq_of_digits_eq {v w : Word}
    (h : ∀ k < 8, v.extractLsb' (28 - 4 * k) 4 = w.extractLsb' (28 - 4 * k) 4) : v = w := by
  refine BitVec.eq_of_getLsbD_eq fun i hi => ?_
  rw [getLsbD_eq_digit_getLsbD v hi, getLsbD_eq_digit_getLsbD w hi, h _ (by omega)]

theorem hex8_injective : Function.Injective hex8 := by
  intro v w h
  refine word_eq_of_digits_eq fun k hk => hexDigit_injective (Option.some.inj ?_)
  rw [← hex8_getElem? v hk, ← hex8_getElem? w hk, h]

/-- Settles O42: each position holds its digit, and the digits determine the word bit by bit. -/
theorem hexTextIsEightUpperCaseDigits : Obligations.HexTextIsEightUpperCaseDigits := by
  unfold Obligations.HexTextIsEightUpperCaseDigits
  refine ⟨fun v => ⟨hex8_length v, fun k hk => ?_⟩, by decide, fun _ _ h => hex8_injective h⟩
  rw [hex8_getElem? v hk, hexDigit_eq_getD]

end Sys2Proof.Proofs
end

section
/-! The outputs as functions of `acc` and `err` (10_state.md R13, R14), and their values after a reset (R18). -/

namespace Sys2Proof.Proofs
open Sys2Proof.Machine Sys2Proof.Laws

@[simp] theorem out_err (s : State) : (out s).err = s.err := rfl

theorem out_crc (s : State) :
    (out s).crc = if s.err = true then 0x00000000#32 else s.acc ^^^ 0xFFFFFFFF#32 := rfl

theorem result_eq_ite_crc (s : State) : result s = if s.err = true then none else some (out s).crc := rfl

/-- No other field reaches the pins (R17: there is no hidden state). -/
theorem out_eq_of_acc_eq_of_err_eq {s t : State} (hacc : t.acc = s.acc) (herr : t.err = s.err) : out t = out s := by
  cases h : s.err with
  | true => rw [out_of_err h, out_of_err (herr.trans h)]
  | false => rw [out_of_not_err h, out_of_not_err (herr.trans h), hacc]

/-- The first character of R7's text is the digit of the four most significant bits. -/
theorem hex8_head? (v : Word) : (hex8 v).head? = some (hexDigit (v.extractLsb' 28 4)) := by
  rw [List.head?_eq_getElem?, hex8_getElem? v (by decide)]

/-- The start value and the final XOR cancel: the source's "seed 0" as the host sees it (R18). -/
theorem out_of_acc_initValue {s : State} (hacc : s.acc = initValue) (herr : s.err = false) :
    out s = ⟨0x00000000#32, false⟩ := by
  have cancel : initValue ^^^ xorOut = 0x00000000#32 := by decide
  rw [out_of_not_err herr, hacc, cancel]

/-- Settles O15: R13's formula, R14's pair and result, and R7's digit at place 0 of the text of `crc`. -/
theorem outputsAreFunctionsOfAccAndErr : Obligations.OutputsAreFunctionsOfAccAndErr := by
  unfold Obligations.OutputsAreFunctionsOfAccAndErr
  exact fun s => ⟨out_crc s, out_err s, result_eq_ite_crc s, fun _ => out_eq_of_acc_eq_of_err_eq, hex8_head? _⟩

/-- Settles O16: the reset values of R18, and the outputs that R13 and R14 give for them. -/
theorem resetStateHasTheSpecsValues : Obligations.ResetStateHasTheSpecsValues := by
  unfold Obligations.ResetStateHasTheSpecsValues
  exact ⟨rfl, rfl, out_of_acc_initValue rfl rfl⟩

end Sys2Proof.Proofs
end

section
/-! Strict sequential order by rising edge (20_memory.md R28): runs compose, and the inputs laid out for the later
edges are what the state holds between them. -/

namespace Sys2Proof.Proofs
open Sys2Proof.Machine Sys2Proof.Laws

/-- A run that has reached `t` goes on from `t`: nothing but the state passes from edge to edge. -/
theorem runSteps_add {m : Nat} {s t : State} (h : runSteps m s = .next t) (n : Nat) :
    runSteps (m + n) s = runSteps n t := by
  induction m generalizing s with
  | zero =>
    obtain rfl : s = t := Host.Outcome.next.inj h
    rw [Nat.zero_add]
  | succ m ih =>
    rw [Nat.succ_add]
    cases hstep : step s with
    | next u =>
      simp only [runSteps, hstep] at h ⊢
      exact ih h
    | fault r => cases r
    | refused r => simp [runSteps, hstep] at h

@[simp] theorem runSteps_one (s : State) : runSteps 1 s = step s := by
  simp only [runSteps]
  cases step s <;> rfl

theorem present_append (ps qs : List Pins) (s : State) : present (ps ++ qs) s = present ps (present qs s) := by
  simp [present]

theorem presented_of_stream_eq_drive_cons {s : State} {p : Pins} {xs : List Sample} (h : s.stream = drive p :: xs) :
    presented s = some p := by
  rw [presented_cons h, readSample_drive]

/-- Settles O20: the run over the first inputs leaves the others laid out, so the next edge is the step with the
first of those. -/
theorem stateAfterEachEdgeIsStepOfTheLast : Obligations.StateAfterEachEdgeIsStepOfTheLast := by
  unfold Obligations.StateAfterEachEdgeIsStepOfTheLast
  refine ⟨runSteps_present_next, fun ps qs p s => ?_⟩
  obtain ⟨t, hrun, hstream, _⟩ := runSteps_present_next ps (present (p :: qs) s)
  obtain ⟨u, hedge, _⟩ := edgeStep_next p (advance t)
  have hinput : presented t = some p := presented_of_stream_eq_drive_cons hstream
  rw [present_append]
  exact ⟨t, u, hrun, hinput, hedge, by rw [runSteps_add hrun, runSteps_one, step_of_presented hinput, hedge]⟩

end Sys2Proof.Proofs
end

section
/-! What the command code `cmd` decides (30_encoding.md R31 to R34): the decoder, the rows of R32's table and the edge
with `rst = 0` all depend on it alone, but for the byte of UPD. -/

namespace Sys2Proof.Proofs
open Sys2Proof.Machine Sys2Proof.Laws

@[simp] theorem decode_nop_code (d : Byte) : decode (0b00#2 ++ d) = .nop := by simp [decode_append]
@[simp] theorem decode_upd_code (d : Byte) : decode (0b01#2 ++ d) = .upd d := by simp [decode_append]
@[simp] theorem decode_init_code (d : Byte) : decode (0b10#2 ++ d) = .init := by simp [decode_append]
@[simp] theorem decode_abort_code (d : Byte) : decode (0b11#2 ++ d) = .abort := by simp [decode_append]

/-- R33: the operand field is read by UPD alone. -/
theorem decode_append_eq_of_ne_upd_code {c : CommandCode} (hc : c ≠ 0b01#2) (d e : Byte) :
    decode (c ++ d) = decode (c ++ e) := by
  simp [decode_append, hc]

theorem edgeStep_of_rst {p : Pins} (hrst : p.rst = true) (s : State) :
    edgeStep p s = .next (resetEdge s) := by
  simp [edgeStep, hrst]

theorem edgeStep_of_not_rst {p : Pins} (hrst : p.rst = false) (s : State) :
    edgeStep p s = exec (decode (p.cmd ++ p.data)) s := by
  simp [edgeStep, hrst, pinsWord]

/-- Settles O3: every edge has a next state, and with `rst = 0` it runs what the decoder reads, which sees the data
bits of UPD only. -/
theorem everyWordIsLegal : Obligations.EveryWordIsLegal := by
  unfold Obligations.EveryWordIsLegal
  refine fun c d s => ⟨?_, fun hc => ?_⟩
  · obtain ⟨t, ht, _⟩ := edgeStep_next ⟨false, c, d⟩ s
    exact ⟨t, ht⟩
  · rw [edgeStep_of_not_rst rfl, edgeStep_of_not_rst rfl, decode_append_eq_of_ne_upd_code hc d 0x00#8]

/-- The mask of every row keeps the code and clears the data bits (R32). -/
theorem and_opcodeRow_mask (w : CommandWord) (i : Instr) : w &&& (opcodeRow i).mask = cmdField w ++ 0x00#8 := by
  have hword : cmdField w ++ dataField w = w := pinsWord_wordPins w
  have hmask : (opcodeRow i).mask = 0b11#2 ++ 0x00#8 := by cases i <;> rfl
  have hones : (0b11#2 : CommandCode) = BitVec.allOnes 2 := rfl
  calc w &&& (opcodeRow i).mask
      = (cmdField w ++ dataField w) &&& (0b11#2 ++ 0x00#8) := by rw [hword, hmask]
    _ = cmdField w ++ 0x00#8 := by rw [BitVec.and_append, hones, BitVec.and_allOnes, BitVec.and_zero]

/-- The match of the row that a word decodes to is the word with its data bits cleared (R32). -/
theorem opcodeRow_decode_pattern (w : CommandWord) : (opcodeRow (decode w)).pattern = cmdField w ++ 0x00#8 := by
  unfold decode
  generalize cmdField w = c
  generalize dataField w = d
  revert c d
  decide

/-- The four rows have different matches and different mnemonics. -/
theorem opcodeRow_pattern_eq_iff_mnemonic_eq (i j : Instr) :
    (opcodeRow i).pattern = (opcodeRow j).pattern ↔ (opcodeRow i).mnemonic = (opcodeRow j).mnemonic := by
  cases i <;> cases j <;> simp [opcodeRow]

/-- A word selects exactly the row of the command it decodes to (R32). -/
theorem opcodeRow_selects_iff (w : CommandWord) (i : Instr) :
    (opcodeRow i).selects w = true ↔ (opcodeRow i).mnemonic = (opcodeRow (decode w)).mnemonic := by
  rw [OpcodeRow.selects, beq_iff_eq, and_opcodeRow_mask, ← opcodeRow_decode_pattern, eq_comm,
    opcodeRow_pattern_eq_iff_mnemonic_eq]

/-- Settles O5: reset first, then the command that the decoder reads from the code, with the rows of the table. -/
theorem stepDispatchesOnResetThenCommand : Obligations.StepDispatchesOnResetThenCommand := by
  unfold Obligations.StepDispatchesOnResetThenCommand
  refine ⟨fun s p hp => ?_, rfl, fun _ => rfl, rfl, rfl, opcodeRow_selects_iff⟩
  rw [step_of_presented hp]
  obtain ⟨t, ht, _⟩ := edgeStep_next p (advance s)
  refine ⟨fun hrst => edgeStep_of_rst hrst _, ?nop, ?upd, ?init, ?abort, t, ht⟩ <;>
    intro hrst hcmd <;> rw [edgeStep_of_not_rst hrst, hcmd]
  case nop => rw [decode_nop_code]; rfl
  case upd => rw [decode_upd_code]; rfl
  case init => rw [decode_init_code]; rfl
  case abort => rw [decode_abort_code]; rfl

end Sys2Proof.Proofs
end

section
/-! Runs (70_reset_and_hazards.md R74): what each edge does by the command it executes, the state a run ends in, and the
host's sequence for `compute_checksum` (30_encoding.md R37) as such a run. -/

namespace Sys2Proof.Proofs
open Sys2Proof.Machine Sys2Proof.Laws

@[simp] theorem decode_encode (i : Instr) : decode (encode i) = i := by
  cases i with
  | nop => decide
  | upd d => revert d; decide
  | init => decide
  | abort => decide

@[simp] theorem commandAt_commandPins (i : Instr) : commandAt (commandPins i) = some i := by
  simp [commandAt]

@[simp] theorem commandAt_rstPins : commandAt rstPins = none := rfl

/-- The data bits of an idle edge are ignored (R33). -/
@[simp] theorem commandAt_idle (d : Byte) : commandAt ⟨false, 0b00#2, d⟩ = some .nop := by
  simp [commandAt, pinsWord]

theorem edgeStep_of_commandAt_none {p : Pins} (h : commandAt p = none) (s : State) :
    edgeStep p s = .next (fresh s) := by
  have hrst : p.rst = true := by simpa [commandAt] using h
  exact edgeStep_of_rst hrst s

theorem edgeStep_of_commandAt {p : Pins} {i : Instr} (h : commandAt p = some i) (s : State) :
    edgeStep p s = exec i s := by
  obtain ⟨hrst, rfl⟩ : p.rst = false ∧ decode (pinsWord p) = i := by simpa [commandAt] using h
  exact edgeStep_of_not_rst hrst s

theorem startsRun_iff {p : Pins} : startsRun p = true ↔ commandAt p = none ∨ commandAt p = some .init := by
  simp [startsRun]

theorem startsRun_of_commandAt {p : Pins} {i : Instr} (h : commandAt p = some i) (hi : i ≠ .init) :
    startsRun p = false := by
  simp [startsRun, h, hi]

/-- Reset and INIT leave one state (R72). -/
theorem edgeStep_of_startsRun {p : Pins} (h : startsRun p = true) (s : State) : edgeStep p s = .next (fresh s) := by
  obtain hnone | hinit := startsRun_iff.mp h
  · exact edgeStep_of_commandAt_none hnone s
  · exact edgeStep_of_commandAt hinit s

/-- An edge that begins no run executes NOP, UPD or ABORT. -/
theorem commandAt_cases_of_not_startsRun {p : Pins} (h : startsRun p = false) :
    commandAt p = some .nop ∨ (∃ d, commandAt p = some (.upd d)) ∨ commandAt p = some .abort := by
  cases hp : commandAt p with
  | none => simp [startsRun, hp] at h
  | some i => cases i <;> simp [startsRun, hp] at h ⊢

theorem isAbort_of_commandAt {p : Pins} {i : Instr} (h : commandAt p = some i) : isAbort p = decide (i = .abort) := by
  simp [isAbort, h, beq_eq_decide]

theorem runMsg_cons_of_nop {p : Pins} (h : commandAt p = some .nop) (ps : List Pins) :
    runMsg (p :: ps) = runMsg ps := by
  simp [runMsg, h]

theorem runMsg_cons_of_upd {p : Pins} {d : Byte} (h : commandAt p = some (.upd d)) (ps : List Pins) :
    runMsg (p :: ps) = d :: runMsg ps := by
  simp [runMsg, h]

/-- Edges that begin no run: an ABORT among them sets the sticky flag, and while the flag is clear the register has
folded the bytes of the UPD commands. -/
theorem runSteps_of_not_startsRun (ps : List Pins) (s : State) (hps : ∀ p ∈ ps, startsRun p = false) :
    ∃ t, runSteps ps.length (present ps s) = .next t ∧ t.err = (s.err || ps.any isAbort) ∧
      (t.err = false → t.acc = (runMsg ps).foldl step8 s.acc) := by
  induction ps generalizing s with
  | nil => exact ⟨s, rfl, by simp, fun _ => rfl⟩
  | cons p ps ih =>
    obtain ⟨hp, hps⟩ := List.forall_mem_cons.mp hps
    obtain ⟨u, hu, -, -, hrun⟩ := runSteps_present_cons ps.length p ps s
    obtain ⟨t, ht, herr, hacc⟩ := ih u hps
    refine ⟨t, hrun.trans ht, ?_⟩
    obtain hnop | ⟨d, hupd⟩ | habort := commandAt_cases_of_not_startsRun hp
    · rw [edgeStep_of_commandAt hnop] at hu
      obtain rfl := Host.Outcome.next.inj hu
      rw [runMsg_cons_of_nop hnop, List.any_cons, isAbort_of_commandAt hnop]
      exact ⟨herr, hacc⟩
    · rw [edgeStep_of_commandAt hupd] at hu
      obtain rfl := Host.Outcome.next.inj ((execUpd_eq d _).symm.trans hu)
      rw [runMsg_cons_of_upd hupd, List.any_cons, isAbort_of_commandAt hupd]
      cases hs : s.err with
      | true =>
        have hset : t.err = true := by simpa [hs] using herr
        simp [hset]
      | false => simpa [hs] using And.intro herr hacc
    · rw [edgeStep_of_commandAt habort] at hu
      obtain rfl := Host.Outcome.next.inj hu
      have hset : t.err = true := by simpa using herr
      simp [hset, isAbort_of_commandAt habort]

/-- R74: what the host samples at the end of a run. -/
theorem runSteps_of_startsRun {start : Pins} (hstart : startsRun start = true) (ps : List Pins)
    (hps : ∀ p ∈ ps, startsRun p = false) (s : State) :
    ∃ t, runSteps (ps.length + 1) (present (start :: ps) s) = .next t ∧
      out t = if ps.any isAbort = true then ⟨0x00000000#32, true⟩ else ⟨crc32 (runMsg ps), false⟩ := by
  obtain ⟨u, hu, -, -, hrun⟩ := runSteps_present_cons ps.length start ps s
  rw [edgeStep_of_startsRun hstart] at hu
  obtain rfl := Host.Outcome.next.inj hu
  obtain ⟨t, ht, herr, hacc⟩ := runSteps_of_not_startsRun ps _ hps
  rw [fresh_err, Bool.false_or] at herr
  refine ⟨t, hrun.trans ht, ?_⟩
  cases hany : ps.any isAbort with
  | true => exact out_of_err (herr.trans hany)
  | false =>
    have hclear : t.err = false := herr.trans hany
    rw [out_of_not_err hclear, hacc hclear]
    rfl

/-- The result is what the output pair says (R14). -/
theorem result_eq_of_out_eq {s : State} {c : Word} {e : Bool} (h : out s = ⟨c, e⟩) :
    result s = if e = true then none else some c := by
  rw [result_eq_ite_crc, ← out_err, h]

theorem runMsg_updPins_append (m : List Byte) (ps : List Pins) : runMsg (updPins m ++ ps) = m ++ runMsg ps := by
  induction m with
  | nil => rfl
  | cons b m ih => exact (runMsg_cons_of_upd (commandAt_commandPins _) _).trans (congrArg (b :: ·) ih)

theorem runMsg_idlePins_append (junk : List Byte) (ps : List Pins) : runMsg (idlePins junk ++ ps) = runMsg ps := by
  induction junk with
  | nil => rfl
  | cons d junk ih => exact (runMsg_cons_of_nop (commandAt_idle d) _).trans ih

/-- The bytes of a chunked stream are those of its chunks in order; the idle edges between add none (R37). -/
theorem runMsg_chunkPins (cs : List (List Byte × List Byte)) : runMsg (chunkPins cs) = cs.flatMap Prod.fst := by
  induction cs with
  | nil => rfl
  | cons c cs ih =>
    calc runMsg (chunkPins (c :: cs))
        = runMsg (updPins c.1 ++ (idlePins c.2 ++ chunkPins cs)) := by simp [chunkPins]
      _ = c.1 ++ cs.flatMap Prod.fst := by rw [runMsg_updPins_append, runMsg_idlePins_append, ih]

theorem commandAt_of_mem_chunkPins {cs : List (List Byte × List Byte)} {p : Pins} (hp : p ∈ chunkPins cs) :
    commandAt p = some .nop ∨ ∃ d, commandAt p = some (.upd d) := by
  obtain ⟨c, -, hpc⟩ := List.mem_flatMap.mp hp
  obtain hupd | hidle := List.mem_append.mp hpc
  · obtain ⟨b, -, rfl⟩ := List.mem_map.mp hupd
    exact .inr ⟨b, commandAt_commandPins _⟩
  · obtain ⟨d, -, rfl⟩ := List.mem_map.mp hidle
    exact .inl (commandAt_idle d)

theorem startsRun_of_mem_chunkPins {cs : List (List Byte × List Byte)} {p : Pins} (hp : p ∈ chunkPins cs) :
    startsRun p = false := by
  obtain hnop | ⟨d, hupd⟩ := commandAt_of_mem_chunkPins hp
  · exact startsRun_of_commandAt hnop (by simp)
  · exact startsRun_of_commandAt hupd (by simp)

theorem any_isAbort_chunkPins (cs : List (List Byte × List Byte)) : (chunkPins cs).any isAbort = false := by
  refine List.any_eq_false.mpr fun p hp => ?_
  obtain hnop | ⟨d, hupd⟩ := commandAt_of_mem_chunkPins hp
  · simp [isAbort_of_commandAt hnop]
  · simp [isAbort_of_commandAt hupd]

/-- Settles O31: the sequence is a run whose bytes are those of the chunks, and the ABORT at its end sets the flag. -/
theorem computeChecksumSequence : Obligations.ComputeChecksumSequence := by
  unfold Obligations.ComputeChecksumSequence
  intro s start cs hstart
  have hstarts : startsRun start = true := by
    rcases hstart with rfl | rfl <;> simp [startsRun]
  constructor
  · obtain ⟨t, ht, hout⟩ := runSteps_of_startsRun hstarts (chunkPins cs) (fun _ => startsRun_of_mem_chunkPins) s
    rw [any_isAbort_chunkPins, runMsg_chunkPins] at hout
    exact ⟨t, ht, hout, result_eq_of_out_eq hout⟩
  · have habort : commandAt (commandPins .abort) = some .abort := commandAt_commandPins _
    have hps : ∀ p ∈ chunkPins cs ++ [commandPins .abort], startsRun p = false :=
      List.forall_mem_append.mpr ⟨fun _ => startsRun_of_mem_chunkPins,
        List.forall_mem_singleton.mpr (startsRun_of_commandAt habort (by simp))⟩
    have hany : (chunkPins cs ++ [commandPins .abort]).any isAbort = true := by
      simp [isAbort_of_commandAt habort]
    obtain ⟨t, ht, hout⟩ := runSteps_of_startsRun hstarts _ hps s
    rw [if_pos hany] at hout
    rw [List.length_append] at ht
    exact ⟨t, ht, hout, result_eq_of_out_eq hout⟩

end Sys2Proof.Proofs
end

section
/-! The expansions of the pseudo-instructions (30_encoding.md R36). -/

namespace Sys2Proof.Proofs
open Sys2Proof.Machine

/-- MSG folds the code of each character, in order. -/
theorem expandLine_msg (text : Text) :
    expandLine (.msg text) = text.map fun c => commandPins (.upd (BitVec.ofNat 8 c.toNat)) :=
  List.map_map

/-- Settles O43: R36's list, line by line; only MSG is built in two passes. -/
theorem pseudoInstructionsExpand : Obligations.PseudoInstructionsExpand := by
  unfold Obligations.PseudoInstructionsExpand
  exact ⟨rfl, fun _ _ => rfl, fun _ => rfl, expandLine_msg, fun _ => rfl, fun _ => rfl, fun _ _ _ => ⟨rfl, rfl⟩⟩

end Sys2Proof.Proofs
end

section
/-! One bit (40_update.md R40): `step1` shifts right and, if the bit shifted out differs from the input bit, XORs
`POLY_R`. -/

namespace Sys2Proof.Proofs
open Sys2Proof.Machine

theorem step1_eq_of_xor {a : Word} {b : Bool} (h : (a[0] ^^ b) = true) : step1 a b = (a >>> 1) ^^^ polyR := by
  rw [step1, if_pos h]

theorem step1_eq_of_not_xor {a : Word} {b : Bool} (h : (a[0] ^^ b) = false) : step1 a b = a >>> 1 := by
  simp [step1, h]

/-- R40 bit by bit; bit 32 of the shifted register reads as 0. -/
theorem getElem_step1 (a : Word) (b : Bool) {i : Nat} (hi : i < 32) :
    (step1 a b)[i] = (a.getLsbD (i + 1) ^^ ((a[0] ^^ b) && polyR[i])) := by
  cases h : (a[0] ^^ b) with
  | false => simp [step1_eq_of_not_xor h, Nat.add_comm]
  | true => simp [step1_eq_of_xor h, Nat.add_comm]

/-- `POLY_R` has a one at bit 31 (R3), so the feedback bit is what is shifted in. -/
theorem getElem_step1_31 (a : Word) (b : Bool) : (step1 a b)[31] = (a[0] ^^ b) := by
  have htop : polyR[31] = true := by decide
  rw [getElem_step1 a b (by decide), BitVec.getLsbD_of_ge a 32 le_rfl, htop, Bool.and_true, Bool.false_xor]

/-- Settles O21: the formula and its bits hold for every register and bit; the places of the ones of `POLY_R` and the
eight examples are values of the rule. -/
theorem oneBitStepMatchesItsEquations : Obligations.OneBitStepMatchesItsEquations := by
  unfold Obligations.OneBitStepMatchesItsEquations
  refine ⟨fun a b => ⟨rfl, fun i hi => ?_, getElem_step1_31 a b⟩, by decide, by decide⟩
  rw [getElem_step1 a b (by omega), BitVec.getLsbD_eq_getElem]

end Sys2Proof.Proofs
end

section
/-! One byte and a message: `raw` and `crc32` (40_update.md R43), and UPD, which folds its byte while `err = 0`
(R42). -/

namespace Sys2Proof.Proofs
open Sys2Proof.Machine Sys2Proof.Laws

theorem raw_append (m n : List Byte) : raw (m ++ n) = n.foldl step8 (raw m) :=
  List.foldl_append

/-- The check value of R3, cut after the fourth byte so that each part is short to evaluate. -/
theorem crc32_checkMessage :
    crc32 [0x31#8, 0x32#8, 0x33#8, 0x34#8, 0x35#8, 0x36#8, 0x37#8, 0x38#8, 0x39#8] = checkValue := by
  have hfirst : raw [0x31#8, 0x32#8, 0x33#8, 0x34#8] = 0x641C1F5C#32 := by decide
  have hrest : [0x35#8, 0x36#8, 0x37#8, 0x38#8, 0x39#8].foldl step8 0x641C1F5C#32 ^^^ xorOut = checkValue := by decide
  rw [← hrest, ← hfirst, ← raw_append]
  rfl

/-- Settles O27: the equations are those of a left fold; the checksums are values of it. -/
theorem checksumIsTheFoldWithFinalXor : Obligations.ChecksumIsTheFoldWithFinalXor := by
  unfold Obligations.ChecksumIsTheFoldWithFinalXor
  exact ⟨rfl, fun m b => raw_append m [b], fun _ => rfl, by decide, crc32_checkMessage, by decide⟩

/-- R42's corner case: at 0 the register stays under zero bytes. -/
theorem foldl_step8_replicate_zero (n : Nat) : (List.replicate n 0x00#8).foldl step8 0x00000000#32 = 0x00000000#32 := by
  have fixed : step8 0x00000000#32 0x00#8 = 0x00000000#32 := by decide
  induction n with
  | zero => rfl
  | succ n ih => rw [List.replicate_succ, List.foldl_cons, fixed, ih]

theorem exec_upd_of_not_err {s : State} (h : s.err = false) (d : Byte) : exec (.upd d) s = .next (foldByte d s) :=
  (execUpd_eq d s).trans (by simp [h])

theorem step_of_presented_upd {d : Byte} {s : State} (h : presented s = some ⟨false, 0b01#2, d⟩) :
    step s = exec (.upd d) (advance s) := by
  rw [step_of_presented h, edgeStep_of_not_rst rfl, decode_upd_code]

/-- R42's worked example: the first byte of "123456789", folded into a fresh register. -/
theorem exec_decode_0x131 {s : State} (hacc : s.acc = 0xFFFFFFFF#32) (herr : s.err = false) :
    ∃ t, exec (decode 0x131#10) s = .next t ∧ t.acc = 0x7C231048#32 ∧ (out t).crc = 0x83DCEFB7#32 := by
  have hdecode : decode 0x131#10 = .upd 0x31#8 := by decide
  have hfold : (foldByte 0x31#8 s).acc = 0x7C231048#32 := by
    rw [foldByte_acc, hacc]
    decide
  refine ⟨foldByte 0x31#8 s, by rw [hdecode, exec_upd_of_not_err herr], hfold, ?_⟩
  rw [out_of_not_err ((foldByte_err _ s).trans herr), hfold]
  decide

/-- Settles O6: UPD is one guarded fold, at an edge after the sample is used up. -/
theorem updFoldsOneByte : Obligations.UpdFoldsOneByte := by
  unfold Obligations.UpdFoldsOneByte
  refine ⟨execUpd_eq, fun d s h => ?_, fun _ => rfl, by decide, by decide, by decide, foldl_step8_replicate_zero,
    fun _ => exec_decode_0x131⟩
  rw [step_of_presented_upd h]
  exact execUpd_eq d (advance s)

end Sys2Proof.Proofs
end

section
/-! The control commands (41_control.md R53 to R55): what an edge with each does, and the runs over which the state
stands still, NOPs in any state and everything but INIT and reset in the faulted condition. -/

namespace Sys2Proof.Proofs
open Sys2Proof.Machine Sys2Proof.Laws

@[simp] theorem commandAt_init_code (d : Byte) : commandAt ⟨false, 0b10#2, d⟩ = some .init := by
  simp [commandAt, pinsWord]

@[simp] theorem commandAt_abort_code (d : Byte) : commandAt ⟨false, 0b11#2, d⟩ = some .abort := by
  simp [commandAt, pinsWord]

theorem step_of_commandAt {s : State} {p : Pins} {i : Instr} (hs : presented s = some p) (hp : commandAt p = some i) :
    step s = exec i (advance s) := by
  rw [step_of_presented hs, edgeStep_of_commandAt hp]

/-- The first edge of a run, once its effect on the block is known. -/
theorem runSteps_present_cons_of_edgeStep {p : Pins} {s t : State}
    (h : edgeStep p { s with edge := s.edge + 1 } = .next t) (n : Nat) (ps : List Pins) :
    runSteps (n + 1) (present (p :: ps) s) = runSteps n (present ps t) := by
  obtain ⟨u, hu, -, -, hrun⟩ := runSteps_present_cons n p ps s
  obtain rfl : t = u := Host.Outcome.next.inj (h.symm.trans hu)
  exact hrun

/-- Inputs that each leave the block as it is leave it so in any number; only the edges are counted. -/
theorem runSteps_of_edgeStep_fixed (ps : List Pins) (s : State)
    (hfix : ∀ p ∈ ps, ∀ e, edgeStep p { s with edge := e } = .next { s with edge := e }) :
    runSteps ps.length (present ps s) = .next { s with edge := s.edge + ps.length } := by
  induction ps generalizing s with
  | nil => rfl
  | cons p ps ih =>
    obtain ⟨hp, hps⟩ := List.forall_mem_cons.mp hfix
    rw [List.length_cons, runSteps_present_cons_of_edgeStep (hp _), Nat.add_comm ps.length, ← Nat.add_assoc]
    exact ih { s with edge := s.edge + 1 } hps

/-- R53: idle edges change no state element. -/
theorem runSteps_idlePins (junk : List Byte) (s : State) :
    runSteps junk.length (present (idlePins junk) s) = .next { s with edge := s.edge + junk.length } := by
  have hfix : ∀ p ∈ idlePins junk, ∀ e, edgeStep p { s with edge := e } = .next { s with edge := e } := by
    intro p hp e
    obtain ⟨d, -, rfl⟩ := List.mem_map.mp hp
    exact edgeStep_of_commandAt (commandAt_idle d) _
  have hlen : (idlePins junk).length = junk.length := List.length_map _
  rw [← hlen]
  exact runSteps_of_edgeStep_fixed _ s hfix

/-- Settles O7: NOP leaves its state, and so do any number of idle edges, each executing NOP. -/
theorem nopChangesNothing : Obligations.NopChangesNothing := by
  unfold Obligations.NopChangesNothing
  exact ⟨fun _ => rfl, fun d s h => ⟨step_of_commandAt h (commandAt_idle d), rfl⟩, runSteps_idlePins, rfl⟩

/-- Settles O8: INIT leaves the fresh state, whose register and flag depend on nothing before it. -/
theorem initStartsANewMessage : Obligations.InitStartsANewMessage := by
  unfold Obligations.InitStartsANewMessage
  refine ⟨fun _ => rfl, fun d s h => step_of_commandAt h (commandAt_init_code d), fun s t h => ?_, rfl⟩
  obtain rfl : fresh s = t := Host.Outcome.next.inj h
  exact ⟨out_of_acc_initValue rfl rfl, rfl, rfl, rfl⟩

theorem raiseStreamAbort_of_err {s : State} (h : s.err = true) : raiseStreamAbort s = s := by
  cases s
  cases h
  rfl

/-- R62: in the faulted condition only INIT and reset have an effect. -/
theorem edgeStep_of_err {p : Pins} {s : State} (hp : startsRun p = false) (hs : s.err = true) :
    edgeStep p s = .next s := by
  obtain hnop | ⟨d, hupd⟩ | habort := commandAt_cases_of_not_startsRun hp
  · exact edgeStep_of_commandAt hnop s
  · rw [edgeStep_of_commandAt hupd]
    exact (execUpd_eq d s).trans (by rw [if_pos hs])
  · rw [edgeStep_of_commandAt habort]
    exact congrArg _ (raiseStreamAbort_of_err hs)

/-- R55: the fault stays, and `acc` with it, through any inputs that are neither INIT nor reset. -/
theorem runSteps_of_err {ps : List Pins} {s : State} (hps : ∀ p ∈ ps, startsRun p = false) (hs : s.err = true) :
    runSteps ps.length (present ps s) = .next { s with edge := s.edge + ps.length } :=
  runSteps_of_edgeStep_fixed ps s fun p hp _ => edgeStep_of_err (hps p hp) hs

/-- Settles O9: the edge with ABORT enters the faulted condition and keeps `acc`, and the edges after it change
neither. -/
theorem abortFailsTheMessage : Obligations.AbortFailsTheMessage := by
  unfold Obligations.AbortFailsTheMessage
  refine ⟨fun _ => rfl, fun d s h => step_of_commandAt h (commandAt_abort_code d), fun d ps s hps => ?_, rfl⟩
  have hedge : edgeStep ⟨false, 0b11#2, d⟩ { s with edge := s.edge + 1 } =
      .next { s with err := true, edge := s.edge + 1 } :=
    edgeStep_of_commandAt (commandAt_abort_code d) _
  rw [runSteps_present_cons_of_edgeStep hedge, runSteps_of_err hps rfl]
  exact ⟨_, rfl, out_of_err rfl, rfl⟩

end Sys2Proof.Proofs
end

section
/-! The exception StreamAbort (60_exceptions.md R60, R64): which edges raise it, and what wins where it meets reset or
INIT. -/

namespace Sys2Proof.Proofs
open Sys2Proof.Machine Sys2Proof.Laws

theorem decode_append_eq_abort_iff {c : CommandCode} {d : Byte} : decode (c ++ d) = .abort ↔ c = 0b11#2 := by
  revert c d
  decide

theorem commandAt_eq_abort_iff {p : Pins} : commandAt p = some .abort ↔ p.rst = false ∧ p.cmd = 0b11#2 := by
  cases hrst : p.rst <;> simp [commandAt, hrst, pinsWord, decode_append_eq_abort_iff]

/-- R60: from `err = 0`, reset, INIT, NOP and UPD leave `err = 0`, and ABORT alone sets it. -/
theorem edgeStep_err_iff_of_not_err {s : State} (hs : s.err = false) (p : Pins) :
    ∃ t, edgeStep p s = .next t ∧ (t.err = true ↔ commandAt p = some .abort) := by
  cases hp : commandAt p with
  | none => exact ⟨fresh s, edgeStep_of_commandAt_none hp s, by simp⟩
  | some i =>
    rw [edgeStep_of_commandAt hp]
    cases i with
    | nop => exact ⟨s, rfl, by simp [hs]⟩
    | upd d => exact ⟨foldByte d s, exec_upd_of_not_err hs d, by simp [hs]⟩
    | init => exact ⟨fresh s, rfl, by simp⟩
    | abort => exact ⟨raiseStreamAbort s, rfl, by simp⟩

/-- Settles O10: taking the exception is one assignment, ABORT takes it, and no other edge sets a clear `err`. -/
theorem onlyAbortRaisesStreamAbort : Obligations.OnlyAbortRaisesStreamAbort := by
  unfold Obligations.OnlyAbortRaisesStreamAbort
  refine ⟨fun _ => rfl, fun _ => rfl, fun s p hp hs => ?_⟩
  obtain ⟨t, ht, herr⟩ := edgeStep_err_iff_of_not_err (s := advance s) hs p
  exact ⟨t, (step_of_presented hp).trans ht, herr.trans commandAt_eq_abort_iff⟩

/-- Two commands at successive edges: the second acts on what the first left, one edge later. -/
theorem runSteps_two_commandPins {i : Instr} {s t : State} (h : exec i { s with edge := s.edge + 1 } = .next t)
    (j : Instr) :
    runSteps 2 (present [commandPins i, commandPins j] s) = exec j { t with edge := t.edge + 1 } := by
  have hfirst : edgeStep (commandPins i) { s with edge := s.edge + 1 } = .next t :=
    (edgeStep_of_commandAt (commandAt_commandPins i) _).trans h
  rw [runSteps_present_cons_of_edgeStep hfirst, runSteps_one,
    step_of_commandAt (presented_present_cons _ _ _) (commandAt_commandPins j), advance_present_cons, present_nil]

/-- Settles O12: an edge looks at `rst` before the command, and the flag after two commands is the one the second
writes. -/
theorem resetHasPriorityAndLaterCommandWins : Obligations.ResetHasPriorityAndLaterCommandWins := by
  unfold Obligations.ResetHasPriorityAndLaterCommandWins
  refine ⟨fun s d hp => ?_, fun s p hp => ?_, fun s => ?_, fun s => ?_⟩
  · exact ⟨_, (step_of_presented hp).trans (edgeStep_of_rst rfl _), resetEdge_err _⟩
  · exact step_of_presented hp
  · exact ⟨_, runSteps_two_commandPins (i := .init) rfl .abort, raiseStreamAbort_err _⟩
  · exact ⟨_, runSteps_two_commandPins (i := .abort) rfl .init, fresh_err _⟩

end Sys2Proof.Proofs
end

section
/-! Reset (70_reset_and_hazards.md R70) and the result of a run (R74). -/

namespace Sys2Proof.Proofs
open Sys2Proof.Machine Sys2Proof.Laws

/-- R70's two assignments, and no others. -/
theorem resetEdge_eq (s : State) : resetEdge s = { s with acc := 0xFFFFFFFF#32, err := false } := rfl

/-- Settles O11: an edge looks at `rst` first, and only with `rst = 0` at the command. -/
theorem resetEdgeLoadsTheResetValues : Obligations.ResetEdgeLoadsTheResetValues := by
  unfold Obligations.ResetEdgeLoadsTheResetValues
  refine fun s p hp => ⟨fun hrst => ?_, fun hrst => ?_⟩
  · rw [step_of_presented hp, edgeStep_of_rst hrst, resetEdge_eq]
  · rw [step_of_presented hp, edgeStep_of_not_rst hrst]

/-- Settles O30: the edge that begins the run leaves the fresh state, and the inputs after it fold the bytes of the
UPD commands from there until an ABORT sets the sticky flag. -/
theorem resultOfARun : Obligations.ResultOfARun := by
  unfold Obligations.ResultOfARun
  exact fun s _ ps hstart hps => runSteps_of_startsRun hstart ps hps s

end Sys2Proof.Proofs
end

section
/-! Encoding and decoding word by word (30_encoding.md R31 to R35). -/

namespace Sys2Proof.Proofs
open Sys2Proof.Machine Sys2Proof.Laws

/-- R35: the canonical word of a decoded word is the word itself for UPD, and clears the ignored bits for the others. -/
theorem encode_decode (w : CommandWord) :
    encode (decode w) = if cmdField w = 0b01#2 then w else cmdField w ++ 0x00#8 := by
  have hword : cmdField w ++ dataField w = w := pinsWord_wordPins w
  unfold decode
  rw [← hword]
  generalize cmdField w = c
  generalize dataField w = d
  revert c d
  decide

/-- Settles O2: the round trip command by command, the rows, and the round trip word by word. -/
theorem decodeAndEncodeAgree : Obligations.DecodeAndEncodeAgree := by
  unfold Obligations.DecodeAndEncodeAgree
  exact ⟨decode_encode, opcodeRow_selects_iff, encode_decode⟩

end Sys2Proof.Proofs
end

section
/-! The link between the block and the message (40_update.md R46): after every edge `acc` is `raw` of the ghost list. -/

namespace Sys2Proof.Proofs
open Sys2Proof.Machine Sys2Proof.Laws

theorem nextMsg_of_startsRun {p : Pins} (h : startsRun p = true) (e : Bool) (msg : List Byte) :
    nextMsg p e msg = [] := by
  obtain hnone | hinit := startsRun_iff.mp h
  · simp [nextMsg, hnone]
  · simp [nextMsg, hinit]

theorem holdsMessage_fresh (s : State) : HoldsMessage (fresh s) [] := rfl

theorem holdsMessage_foldByte {s : State} {msg : List Byte} (h : HoldsMessage s msg) (d : Byte) :
    HoldsMessage (foldByte d s) (msg ++ [d]) := by
  unfold HoldsMessage at h ⊢
  rw [foldByte_acc, h, raw_append]
  rfl

theorem holdsMessage_raiseStreamAbort {s : State} {msg : List Byte} (h : HoldsMessage s msg) :
    HoldsMessage (raiseStreamAbort s) msg := h

theorem out_of_holdsMessage {s : State} {msg : List Byte} (h : HoldsMessage s msg) :
    out s = if s.err = true then ⟨0x00000000#32, true⟩ else ⟨crc32 msg, false⟩ := by
  unfold HoldsMessage at h
  cases herr : s.err with
  | true => exact out_of_err herr
  | false => rw [out_of_not_err herr, h]; rfl

/-- R46's induction step, by the command at the edge. -/
theorem edgeStep_holdsMessage {s : State} {msg : List Byte} (h : HoldsMessage s msg) (p : Pins) :
    ∃ t, edgeStep p s = .next t ∧ HoldsMessage t (nextMsg p s.err msg) := by
  cases hstart : startsRun p with
  | true =>
    rw [nextMsg_of_startsRun hstart]
    exact ⟨fresh s, edgeStep_of_startsRun hstart s, holdsMessage_fresh s⟩
  | false =>
    obtain hnop | ⟨d, hupd⟩ | habort := commandAt_cases_of_not_startsRun hstart
    · exact ⟨s, edgeStep_of_commandAt hnop s, by simpa [nextMsg, hnop] using h⟩
    · cases herr : s.err with
      | true => exact ⟨s, edgeStep_of_err hstart herr, by simpa [nextMsg, hupd] using h⟩
      | false =>
        refine ⟨foldByte d s, (edgeStep_of_commandAt hupd s).trans (exec_upd_of_not_err herr d), ?_⟩
        simpa [nextMsg, hupd] using holdsMessage_foldByte h d
    · exact ⟨raiseStreamAbort s, edgeStep_of_commandAt habort s,
        by simpa [nextMsg, habort] using holdsMessage_raiseStreamAbort h⟩

/-- Settles O28: using up the sample leaves `acc`, each kind of edge keeps the link, and the outputs follow from it. -/
theorem everyStepKeepsTheMessage : Obligations.EveryStepKeepsTheMessage := by
  unfold Obligations.EveryStepKeepsTheMessage
  refine ⟨fun s p msg h hp => ?_, fun s p hp hstart => ?_⟩
  · obtain ⟨t, ht, hmsg⟩ := edgeStep_holdsMessage (s := advance s) h p
    exact ⟨t, (step_of_presented hp).trans ht, hmsg, out_of_holdsMessage hmsg⟩
  · exact ⟨_, (step_of_presented hp).trans (edgeStep_of_startsRun hstart _), holdsMessage_fresh _, rfl⟩

/-- Settles O29: the start value of the register is `raw` of the empty list. -/
theorem resetHoldsTheEmptyMessage : Obligations.ResetHoldsTheEmptyMessage := by
  unfold Obligations.ResetHoldsTheEmptyMessage
  exact ⟨holdsMessage_fresh State.reset, rfl⟩

end Sys2Proof.Proofs
end

section
/-! The faulted condition (60_exceptions.md R62, 41_control.md R55): what leaves it, and that no output shows the `acc`
kept in it. -/

namespace Sys2Proof.Proofs
open Sys2Proof.Machine Sys2Proof.Laws

/-- Settles O40: with `err = 1` only the edges that begin a run have an effect, and theirs is to leave the fresh
state. -/
theorem onlyInitOrResetLeavesTheFault : Obligations.OnlyInitOrResetLeavesTheFault := by
  unfold Obligations.OnlyInitOrResetLeavesTheFault
  refine fun s p herr hp => ⟨out_of_err herr, fun hstart => ?_, fun hstart => ?_⟩
  · exact (step_of_presented hp).trans (edgeStep_of_err hstart herr)
  · exact (step_of_presented hp).trans (edgeStep_of_startsRun hstart _)

theorem sameView_refl (s : State) : SameView s s := ⟨rfl, rfl, rfl, fun _ => rfl⟩

theorem err_eq_of_sameView {s t : State} (h : SameView s t) : t.err = s.err := h.1.symm

/-- Outside the faulted condition the relation is equality. -/
theorem eq_of_sameView {s t : State} (h : SameView s t) (herr : s.err = false) : s = t := by
  obtain ⟨he, hstream, hedge, hacc⟩ := h
  have hacc := hacc herr
  cases s
  cases t
  simp_all

theorem presented_eq_of_sameView {s t : State} (h : SameView s t) : presented s = presented t := by
  obtain ⟨-, hstream, hedge, -⟩ := h
  rw [presented, presented, hstream, hedge]

theorem sameView_advance {s t : State} (h : SameView s t) : SameView (advance s) (advance t) := by
  obtain ⟨he, hstream, hedge, hacc⟩ := h
  exact ⟨he, congrArg List.tail hstream, congrArg (· + 1) hedge, hacc⟩

theorem sameView_fresh {s t : State} (h : SameView s t) : SameView (fresh s) (fresh t) := by
  obtain ⟨-, hstream, hedge, -⟩ := h
  exact ⟨rfl, hstream, hedge, fun _ => rfl⟩

theorem out_eq_of_sameView {s t : State} (h : SameView s t) : out s = out t := by
  cases herr : s.err with
  | true => rw [out_of_err herr, out_of_err ((err_eq_of_sameView h).trans herr)]
  | false => rw [eq_of_sameView h herr]

/-- No edge lets a difference in the kept `acc` through: in the faulted condition an edge either discards `acc` or
leaves the state as it is. -/
theorem edgeStep_sameView {s t : State} (h : SameView s t) (p : Pins) :
    ∃ s' t', edgeStep p s = .next s' ∧ edgeStep p t = .next t' ∧ SameView s' t' := by
  cases herr : s.err with
  | true =>
    cases hstart : startsRun p with
    | true => exact ⟨_, _, edgeStep_of_startsRun hstart s, edgeStep_of_startsRun hstart t, sameView_fresh h⟩
    | false => exact ⟨s, t, edgeStep_of_err hstart herr, edgeStep_of_err hstart ((err_eq_of_sameView h).trans herr), h⟩
  | false =>
    obtain rfl := eq_of_sameView h herr
    obtain ⟨u, hu, -⟩ := edgeStep_next p s
    exact ⟨u, u, hu, hu, sameView_refl u⟩

/-- Settles O41: the two states are presented the same input, so both steps are refused or both are the same edge. -/
theorem abortedAccumulatorIsUnobservable : Obligations.AbortedAccumulatorIsUnobservable := by
  unfold Obligations.AbortedAccumulatorIsUnobservable
  refine fun s t h => ⟨out_eq_of_sameView h, ?_⟩
  have hinput := presented_eq_of_sameView h
  cases hp : presented s with
  | none => exact .inr ⟨step_of_indefinite hp, step_of_indefinite (hinput.symm.trans hp)⟩
  | some p =>
    rw [step_of_presented hp, step_of_presented (hinput.symm.trans hp)]
    exact .inl (edgeStep_sameView (sameView_advance h) p)

end Sys2Proof.Proofs
end

section
/-! The byte step over GF(2) (40_update.md R41, R48, R49): `step1` and `step8` are linear in the register and the input
together, and folding a register's own low byte shifts it out. The forms of section 5 follow from these two. -/

namespace Sys2Proof.Proofs
open Sys2Proof.Machine

/-- XOR with one vector twice is no change. -/
theorem xor_xor_cancel_right {w : Nat} (x y : BitVec w) : x ^^^ y ^^^ y = x := by
  rw [BitVec.xor_assoc, BitVec.xor_self, BitVec.xor_zero]

theorem xor_xor_cancel_left {w : Nat} (x y : BitVec w) : x ^^^ (x ^^^ y) = y := by
  rw [← BitVec.xor_assoc, BitVec.xor_self, BitVec.zero_xor]

theorem step1_xor (a₁ a₂ : Word) (b₁ b₂ : Bool) :
    step1 (a₁ ^^^ a₂) (b₁ ^^ b₂) = step1 a₁ b₁ ^^^ step1 a₂ b₂ := by
  ext i hi
  simp only [BitVec.getElem_xor, BitVec.getLsbD_xor, getElem_step1]
  cases polyR[i] <;> simp [Bool.xor_comm, Bool.xor_left_comm]

/-- A left fold of a step that is linear in its two arguments together is linear in start value and list. -/
theorem foldl_zipWith_xor {β : Type} {f : Word → β → Word} {op : β → β → β}
    (hf : ∀ a₁ a₂ b₁ b₂, f (a₁ ^^^ a₂) (op b₁ b₂) = f a₁ b₁ ^^^ f a₂ b₂) (a₁ a₂ : Word) {l₁ l₂ : List β}
    (hlen : l₁.length = l₂.length) :
    (List.zipWith op l₁ l₂).foldl f (a₁ ^^^ a₂) = l₁.foldl f a₁ ^^^ l₂.foldl f a₂ := by
  induction l₁ generalizing a₁ a₂ l₂ with
  | nil =>
    obtain rfl := List.eq_nil_of_length_eq_zero hlen.symm
    rfl
  | cons b₁ l₁ ih =>
    cases l₂ with
    | nil => simp at hlen
    | cons b₂ l₂ =>
      rw [List.zipWith_cons_cons, List.foldl_cons, hf, ih _ _ (Nat.succ.inj hlen), List.foldl_cons, List.foldl_cons]

theorem byteBits_xor (d₁ d₂ : Byte) : byteBits (d₁ ^^^ d₂) = List.zipWith (· ^^ ·) (byteBits d₁) (byteBits d₂) := by
  simp [byteBits]

theorem step8_xor (a₁ a₂ : Word) (d₁ d₂ : Byte) : step8 (a₁ ^^^ a₂) (d₁ ^^^ d₂) = step8 a₁ d₁ ^^^ step8 a₂ d₂ := by
  unfold step8
  rw [byteBits_xor]
  exact foldl_zipWith_xor step1_xor a₁ a₂ rfl

/-- The feedback bit is 0 where the input bit is the one shifted out (R40). -/
theorem step1_shifted_own_bit (a : Word) (k : Nat) : step1 (a >>> k) (a.getLsbD k) = a >>> (k + 1) := by
  have hbit : (a >>> k)[0] = a.getLsbD k := by simp
  rw [step1_eq_of_not_xor (by rw [hbit, Bool.xor_self]), BitVec.shiftRight_add]

/-- A register that folds its own low byte shifts it out. -/
theorem step8_own_byte (a : Word) : step8 a (a.extractLsb' 0 8) = a >>> 8 := by
  have hbits : byteBits (a.extractLsb' 0 8) = (List.range 8).map a.getLsbD := by
    simp [byteBits, List.range_succ, BitVec.getElem_extractLsb']
  have hshift (n : Nat) : ((List.range n).map a.getLsbD).foldl step1 a = a >>> n := by
    induction n with
    | zero => simp
    | succ n ih => simp [List.range_succ, ih, step1_shifted_own_bit]
  rw [step8, hbits, hshift]

theorem z8_eq_step8 (x : Word) : z8 x = step8 x 0x00#8 := rfl

theorem extractLsb'_zext (d : Byte) : (d.setWidth 32).extractLsb' 0 8 = d := by
  rw [BitVec.extractLsb'_setWidth_of_le (by decide)]
  exact BitVec.extractLsb'_eq_self

theorem zext_shiftRight (d : Byte) : d.setWidth 32 >>> 8 = 0#32 := by
  ext i hi
  simp

/-- A byte in the low bits of the register and the same byte as input cancel. -/
theorem step8_zext (d : Byte) : step8 (d.setWidth 32) d = 0#32 := by
  have hown := step8_own_byte (d.setWidth 32)
  rwa [extractLsb'_zext, zext_shiftRight] at hown

/-- The byte may be XORed into the register first (R41, R48 item 2). -/
theorem step8_eq_step8_xor_zext (a : Word) (d : Byte) : step8 a d = step8 (a ^^^ d.setWidth 32) 0x00#8 := by
  calc step8 a d
      = step8 (a ^^^ d.setWidth 32 ^^^ d.setWidth 32) (0x00#8 ^^^ d) := by
        rw [xor_xor_cancel_right, BitVec.zero_xor]
    _ = step8 (a ^^^ d.setWidth 32) 0x00#8 := by rw [step8_xor, step8_zext, BitVec.xor_zero]

/-- Settles O22: the fold over the eight bits written out, and the byte XORed in first. -/
theorem byteStepEqualsXorThenShift : Obligations.ByteStepEqualsXorThenShift := by
  unfold Obligations.ByteStepEqualsXorThenShift
  exact fun a d => ⟨rfl, step8_eq_step8_xor_zext a d⟩

/-- Settles O25: linearity bit by bit, then along the eight bits of the byte. -/
theorem byteStepIsLinear : Obligations.ByteStepIsLinear := by
  unfold Obligations.ByteStepIsLinear
  exact ⟨step1_xor, step8_xor, by decide, step8_eq_step8_xor_zext⟩

/-- R44's derivation: eight zero-input steps shift the register and XOR in the effect of its low byte. -/
theorem z8_eq_shiftRight_xor (x : Word) : z8 x = (x >>> 8) ^^^ z8 ((x.extractLsb' 0 8).setWidth 32) := by
  let i := x.extractLsb' 0 8
  have hlow : z8 (i.setWidth 32) = step8 0#32 i := by
    rw [z8_eq_step8, step8_eq_step8_xor_zext 0#32 i, BitVec.zero_xor]
  calc z8 x = step8 (x ^^^ 0#32) (i ^^^ i) := by rw [BitVec.xor_zero, BitVec.xor_self, z8_eq_step8]
    _ = (x >>> 8) ^^^ z8 (i.setWidth 32) := by rw [step8_xor, step8_own_byte, hlow]

theorem xor_zext_shiftRight (a : Word) (d : Byte) : (a ^^^ d.setWidth 32) >>> 8 = a >>> 8 := by
  rw [BitVec.ushiftRight_xor_distrib, zext_shiftRight, BitVec.xor_zero]

/-- R44 with `z8` of the index in the place of the table. -/
theorem step8_eq_shiftRight_xor (a : Word) (d : Byte) :
    step8 a d = (a >>> 8) ^^^ z8 (((a ^^^ d.setWidth 32).extractLsb' 0 8).setWidth 32) := by
  rw [step8_eq_step8_xor_zext, ← z8_eq_step8, z8_eq_shiftRight_xor, xor_zext_shiftRight]

/-- The numbers of R44 are those that its definition of `T` gives. -/
theorem printedTable_eq_map : printedTable = (List.range 256).map fun k => z8 (BitVec.ofNat 32 k) := by
  decide +kernel

theorem printedTable_getElem? (i : Byte) : printedTable[i.toNat]? = some (z8 (i.setWidth 32)) := by
  rw [printedTable_eq_map, List.getElem?_map, List.getElem?_range i.isLt, Option.map_some,
    BitVec.ofNat_toNat]

/-- Settles O23: the entries by evaluation, and the form from R44's derivation. -/
theorem tableFormEqualsByteStep : Obligations.TableFormEqualsByteStep := by
  unfold Obligations.TableFormEqualsByteStep
  refine ⟨?_, printedTable_getElem?, fun a d => ?_⟩
  · rw [printedTable_eq_map, List.length_map, List.length_range]
  · rw [step8_eq_shiftRight_xor, step8Table, List.getD_eq_getElem?_getD, printedTable_getElem?, Option.getD_some]

/-- Functions that are linear over GF(2) agree if they agree on the vectors with one bit set. -/
theorem eq_of_xor_of_eq_on_twoPow {w : Nat} {f g : BitVec w → Word} (hf : ∀ x y, f (x ^^^ y) = f x ^^^ f y)
    (hg : ∀ x y, g (x ^^^ y) = g x ^^^ g y) (h : ∀ i < w, f (.twoPow w i) = g (.twoPow w i)) (x : BitVec w) :
    f x = g x := by
  suffices hbelow : ∀ n, ∀ x : BitVec w, (∀ i, n ≤ i → x.getLsbD i = false) → f x = g x from
    hbelow w x fun i hi => BitVec.getLsbD_of_ge x i hi
  intro n
  induction n with
  | zero =>
    intro x hx
    have hzero : x = x ^^^ x := by
      ext i hi
      simpa [BitVec.getLsbD_eq_getElem hi] using hx i
    rw [hzero, hf, hg, BitVec.xor_self, BitVec.xor_self]
  | succ n ih =>
    intro x hx
    by_cases hn : x.getLsbD n = true
    · have hlt : n < w := BitVec.lt_of_getLsbD hn
      rw [← xor_xor_cancel_right x (.twoPow w n), hf, hg, h n hlt]
      refine congrArg (· ^^^ _) (ih _ fun i hi => ?_)
      obtain rfl | hlt := hi.eq_or_lt
      · simp [hn, hlt]
      · simp [BitVec.getLsbD_twoPow, hx i hlt, hlt.ne]
    · refine ih x fun i hi => ?_
      obtain rfl | hlt := hi.eq_or_lt
      · simpa using hn
      · exact hx i hlt

theorem parallelBit_xor (a₁ a₂ : Word) (e₁ e₂ : Byte) (i : Nat) :
    parallelBit (a₁ ^^^ a₂) (e₁ ^^^ e₂) i = (parallelBit a₁ e₁ i ^^ parallelBit a₂ e₂ i) := by
  have hcomm : Std.Commutative Bool.xor := ⟨Bool.xor_comm⟩
  unfold parallelBit
  split
  case h_33 => rfl
  all_goals simp only [BitVec.getElem_xor]; ac_rfl

theorem step8Parallel_xor (a₁ a₂ : Word) (d₁ d₂ : Byte) :
    step8Parallel (a₁ ^^^ a₂) (d₁ ^^^ d₂) = step8Parallel a₁ d₁ ^^^ step8Parallel a₂ d₂ := by
  have hlow : (a₁ ^^^ a₂).extractLsb' 0 8 ^^^ (d₁ ^^^ d₂) =
      (a₁.extractLsb' 0 8 ^^^ d₁) ^^^ (a₂.extractLsb' 0 8 ^^^ d₂) := by
    rw [BitVec.extractLsb'_xor]
    ac_rfl
  unfold step8Parallel
  ext i hi
  simp [hlow, parallelBit_xor]

/-- Settles O24: both forms are linear in register and byte together, so the 32 bits of the one and the 8 bits of the
other, each set alone, decide. -/
theorem parallelFormEqualsByteStep : Obligations.ParallelFormEqualsByteStep := by
  unfold Obligations.ParallelFormEqualsByteStep
  intro acc data
  have hacc : ∀ a : Word, step8 a 0x00#8 = step8Parallel a 0x00#8 :=
    eq_of_xor_of_eq_on_twoPow (step8_xor · · 0x00#8 0x00#8) (step8Parallel_xor · · 0x00#8 0x00#8) (by decide +kernel)
  have hdata : ∀ d : Byte, step8 0#32 d = step8Parallel 0#32 d :=
    eq_of_xor_of_eq_on_twoPow (step8_xor 0#32 0#32) (step8Parallel_xor 0#32 0#32) (by decide +kernel)
  have hstep := step8_xor acc 0#32 0x00#8 data
  have hparallel := step8Parallel_xor acc 0#32 0x00#8 data
  rw [hacc, hdata, ← hparallel] at hstep
  simpa using hstep

end Sys2Proof.Proofs
end

section
/-! Which edges and commands write which state element (10_state.md section 1; 70_reset_and_hazards.md sections 1, 2, 4
and 5; 30_encoding.md R32). -/

namespace Sys2Proof.Proofs
open Sys2Proof.Machine Sys2Proof.Laws

/-- R71: reset edges, at least one, leave what one leaves. -/
theorem runSteps_replicate_rstPins (n : Nat) (s : State) :
    runSteps (n + 1) (present (List.replicate (n + 1) rstPins) s) =
      .next { s with acc := 0xFFFFFFFF#32, err := false, edge := s.edge + (n + 1) } := by
  have hreset (t : State) : edgeStep rstPins t = .next (fresh t) := edgeStep_of_commandAt_none commandAt_rstPins t
  have hlen : (List.replicate n rstPins).length = n := List.length_replicate
  have hrest := runSteps_of_edgeStep_fixed (List.replicate n rstPins) (fresh { s with edge := s.edge + 1 })
    fun p hp e => by rw [List.eq_of_mem_replicate hp, hreset]; rfl
  rw [hlen] at hrest
  rw [List.replicate_succ, runSteps_present_cons_of_edgeStep (hreset _), hrest, Nat.add_comm n, ← Nat.add_assoc]
  rfl

/-- Settles O13: both kinds of edge leave the fresh state, which a reset edge leaves as it is. -/
theorem initAndResetHaveOneEffect : Obligations.InitAndResetHaveOneEffect := by
  unfold Obligations.InitAndResetHaveOneEffect
  refine ⟨fun p q s hp hq => ?_, runSteps_replicate_rstPins⟩
  rw [edgeStep_of_startsRun hp, edgeStep_of_startsRun hq]

/-- Settles O14: the next state of each command, whose fields the operation's laws give. -/
theorem commandsWriteOnlyTheirElements : Obligations.CommandsWriteOnlyTheirElements := by
  unfold Obligations.CommandsWriteOnlyTheirElements
  intro i s
  obtain ⟨t, ht, hstream, hedge⟩ := exec_next i s
  refine ⟨t, ht, hstream, hedge, ?_⟩
  cases i with
  | nop =>
    obtain rfl : s = t := Host.Outcome.next.inj ht
    simp
  | upd d =>
    obtain rfl := Host.Outcome.next.inj ((execUpd_eq d s).symm.trans ht)
    cases herr : s.err <;> simp [herr]
  | init => simp
  | abort =>
    obtain rfl : raiseStreamAbort s = t := Host.Outcome.next.inj ht
    simp

/-- R75: no input is read exactly where the oldest sample laid out has a pin that is not definite. -/
theorem presented_eq_none_iff {s : State} : presented s = none ↔
    ∃ x rest, s.stream = x :: rest ∧
      (x.rst = .unknown ∨ (∃ i : Fin 2, x.cmd[i] = .unknown) ∨ ∃ i : Fin 8, x.data[i] = .unknown) := by
  cases hstream : s.stream with
  | nil => simp [presented_nil hstream]
  | cons x rest => simp [presented_cons hstream, readSample_eq_none, and_assoc]

/-- Settles O18: a step is refused where it reads no input, and has a next state where it reads one. -/
theorem stepRefusesExactlyIndefiniteInputs : Obligations.StepRefusesExactlyIndefiniteInputs := by
  unfold Obligations.StepRefusesExactlyIndefiniteInputs
  intro s
  rw [← presented_eq_none_iff]
  refine ⟨step_of_indefinite, fun hdefinite => ?_⟩
  obtain ⟨p, hp⟩ := Option.ne_none_iff_exists'.mp hdefinite
  obtain ⟨t, ht, -⟩ := edgeStep_next p (advance s)
  exact ⟨t, (step_of_presented hp).trans ht⟩

/-- Settles O19: an edge uses up its sample, and the block's step leaves the host's side. -/
theorem everyCommandTakesOneEdge : Obligations.EveryCommandTakesOneEdge := by
  unfold Obligations.EveryCommandTakesOneEdge
  intro s p hp
  obtain ⟨t, ht, hstream, hedge⟩ := edgeStep_next p (advance s)
  exact ⟨t, (step_of_presented hp).trans ht, hedge, hstream⟩

/-- Settles O17: the fresh state holds nothing of the power-up values. -/
theorem oneFreshEdgeEndsPowerUp : Obligations.OneFreshEdgeEndsPowerUp := by
  unfold Obligations.OneFreshEdgeEndsPowerUp
  intro p rest hstart
  have hinput : presented (State.powerUp (drive p :: rest)) = some p := presented_of_stream_eq_drive_cons rfl
  exact ⟨_, (step_of_presented hinput).trans (edgeStep_of_startsRun hstart _), rfl, rfl, rfl,
    out_of_acc_initValue rfl rfl⟩

/-- A pattern below 2^10 that is placed stands on the pins at the next edge, with `rst` low (log entry 6). -/
theorem presented_withFetchWord (s : State) {nbits w : Nat} (hbits : w < 2 ^ nbits) (hword : w < 2 ^ 10) :
    presented (s.withFetchWord nbits w) = some (wordPins (BitVec.ofNat 10 w)) := by
  have hpattern : isCommandPattern w = true := decide_eq_true hword
  refine presented_of_stream_eq_drive_cons (xs := s.stream.tail) ?_
  rw [State.withFetchWord, replaceNext_stream, Nat.mod_eq_of_lt hbits, patternSample, if_pos hpattern]

/-- Settles O4: an edge with `rst` low runs the word on the pins, laid out or placed. -/
theorem stepRunsTheDecodedCommand : Obligations.StepRunsTheDecodedCommand := by
  unfold Obligations.StepRunsTheDecodedCommand
  refine ⟨fun s p hp hrst => ?_, fun s nbits w hbits hword => ?_⟩
  · exact (step_of_presented hp).trans (edgeStep_of_not_rst hrst _)
  · have hcommand : commandAt (wordPins (BitVec.ofNat 10 w)) = some (decode (BitVec.ofNat 10 w)) := by
      simp [commandAt]
    exact step_of_commandAt (presented_withFetchWord s hbits hword) hcommand

end Sys2Proof.Proofs
end

section
/-! The block with finalised storage (10_state.md R11): at the pins it cannot be told from the block. -/

namespace Sys2Proof.Proofs
open Sys2Proof.Machine Sys2Proof.Laws

theorem out_eq_finalOut_finalise (s : State) : out s = finalOut (finalise s) := rfl

theorem finalise_fresh (s : State) : finalise (fresh s) = ⟨0x00000000#32, false⟩ := by
  simp [finalise, xorOut]

theorem finalise_foldByte (d : Byte) (s : State) :
    finalise (foldByte d s) = { finalise s with fin := finalUpd (finalise s).fin d } := by
  simp [finalise, finalUpd]

/-- The two blocks do the same at every edge, each on its own stored value. -/
theorem edgeStep_finalise (p : Pins) (s : State) :
    ∃ t, edgeStep p s = .next t ∧ finalise t = finalStep p (finalise s) := by
  cases hp : commandAt p with
  | none =>
    refine ⟨fresh s, edgeStep_of_commandAt_none hp s, ?_⟩
    simp [finalStep, hp, finalise_fresh]
  | some i =>
    rw [edgeStep_of_commandAt hp]
    cases i with
    | nop => exact ⟨s, rfl, by simp [finalStep, hp]⟩
    | upd d =>
      refine ⟨_, execUpd_eq d s, ?_⟩
      have herr : (finalise s).err = s.err := rfl
      cases hs : s.err <;> simp [finalStep, hp, herr, hs, finalise_foldByte]
    | init => exact ⟨fresh s, rfl, by simp [finalStep, hp, finalise_fresh]⟩
    | abort => exact ⟨raiseStreamAbort s, rfl, by simp [finalStep, hp, finalise]⟩

/-- Settles O39: the outputs are those of the finalised image, which every edge keeps; UPD on `crc` is `finalUpd`. -/
theorem finalisedStorageShowsTheSameOutputs : Obligations.FinalisedStorageShowsTheSameOutputs := by
  unfold Obligations.FinalisedStorageShowsTheSameOutputs
  refine ⟨out_eq_finalOut_finalise, fun s p hp => ?_, fun d s herr => ?_⟩
  · obtain ⟨t, ht, hfinal⟩ := edgeStep_finalise p (advance s)
    exact ⟨t, (step_of_presented hp).trans ht, hfinal, (out_eq_finalOut_finalise t).trans (congrArg finalOut hfinal)⟩
  · refine ⟨foldByte d s, exec_upd_of_not_err herr d, ?_⟩
    rw [out_of_not_err herr, out_of_not_err ((foldByte_err d s).trans herr)]
    exact congrArg FinalBlock.fin (finalise_foldByte d s)

end Sys2Proof.Proofs
end

section
/-! The bijections (40_update.md R49): no step loses anything of the register, nor of the byte. -/

namespace Sys2Proof.Proofs
open Sys2Proof.Machine

/-- The bit shifted in at the top is the feedback bit, which tells whether `POLY_R` was XORed in (R49). -/
theorem unstep1_step1 (a : Word) (b : Bool) : unstep1 (step1 a b) b = a := by
  have hshift : step1 a b ^^^ (if (a[0] ^^ b) = true then polyR else 0#32) = a >>> 1 := by
    rw [step1, xor_xor_cancel_right]
  unfold unstep1
  simp only [getElem_step1_31, hshift]
  ext i hi
  cases i with
  | zero => simp
  | succ i => simp [BitVec.getLsbD_eq_getElem hi, Nat.add_comm 1 i]

theorem step1_injective (b : Bool) : Function.Injective (step1 · b) :=
  Function.LeftInverse.injective (g := (unstep1 · b)) (unstep1_step1 · b)

/-- On a finite set a left inverse is a right inverse. -/
theorem step1_unstep1 (a : Word) (b : Bool) : step1 (unstep1 a b) b = a :=
  Function.LeftInverse.rightInverse_of_surjective (f := (unstep1 · b)) (unstep1_step1 · b)
    (Finite.surjective_of_injective (step1_injective b)) a

theorem foldl_injective {α β : Type} {f : α → β → α} (hf : ∀ b, Function.Injective (f · b)) (l : List β) :
    Function.Injective (l.foldl f) := by
  induction l with
  | nil => exact Function.injective_id
  | cons b l ih => exact ih.comp (hf b)

theorem step8_injective (d : Byte) : Function.Injective (step8 · d) := foldl_injective step1_injective (byteBits d)

theorem zext_injective : Function.Injective fun d : Byte => d.setWidth 32 :=
  Function.LeftInverse.injective (g := (BitVec.extractLsb' 0 8 ·)) extractLsb'_zext

theorem step8_byte_injective (a : Word) : Function.Injective (step8 a) := by
  intro d e h
  rw [step8_eq_step8_xor_zext a d, step8_eq_step8_xor_zext a e] at h
  exact zext_injective (BitVec.xor_right_inj a |>.mp (step8_injective 0x00#8 h))

/-- Settles O26: the inverse bit by bit, hence injective on a finite set, and the byte XORed in first. -/
theorem byteStepIsABijection : Obligations.ByteStepIsABijection := by
  unfold Obligations.ByteStepIsABijection
  exact ⟨fun a b => ⟨unstep1_step1 a b, step1_unstep1 a b⟩,
    fun d => Finite.injective_iff_bijective.mp (step8_injective d), step8_byte_injective⟩

end Sys2Proof.Proofs
end

section
/-! Four bytes at once (40_update.md sections 7 and 8): a register that folds its own four bytes becomes 0, so folding
the bytes of a word is XORing the word in and folding four zero bytes. -/

namespace Sys2Proof.Proofs
open Sys2Proof.Machine Sys2Proof.Laws

/-- The effect of four zero bytes on the register. -/
def foldFourZeros (a : Word) : Word := (List.replicate 4 0x00#8).foldl step8 a

theorem foldl_step8_injective (m : List Byte) : Function.Injective (m.foldl step8) := foldl_injective step8_injective m

theorem foldFourZeros_bijective : Function.Bijective foldFourZeros :=
  Finite.injective_iff_bijective.mp (foldl_step8_injective _)

theorem foldl_step8_xorMsg (a₁ a₂ : Word) {m₁ m₂ : List Byte} (h : m₁.length = m₂.length) :
    (xorMsg m₁ m₂).foldl step8 (a₁ ^^^ a₂) = m₁.foldl step8 a₁ ^^^ m₂.foldl step8 a₂ :=
  foldl_zipWith_xor step8_xor a₁ a₂ h

theorem foldl_step8_own_bytes (v : Word) : (bytesLE v).foldl step8 v = 0#32 := by
  have hshift (k : Nat) : step8 (v >>> k) (v.extractLsb' k 8) = v >>> (k + 8) := by
    have hlow : (v >>> k).extractLsb' 0 8 = v.extractLsb' k 8 := by
      ext i hi
      simp [BitVec.getElem_extractLsb']
    rw [← hlow, step8_own_byte, BitVec.shiftRight_add]
  have hfirst := hshift 0
  rw [BitVec.ushiftRight_zero] at hfirst
  rw [bytesLE, List.foldl_cons, hfirst, List.foldl_cons, hshift, List.foldl_cons, hshift, List.foldl_cons, hshift]
  exact BitVec.ushiftRight_eq_zero (by decide)

theorem foldl_step8_bytesLE (a v : Word) : (bytesLE v).foldl step8 a = foldFourZeros (a ^^^ v) := by
  have hxor := foldl_step8_xorMsg (a ^^^ v) v (m₁ := List.replicate 4 0x00#8) (m₂ := bytesLE v) rfl
  have hbytes : xorMsg (List.replicate 4 0x00#8) (bytesLE v) = bytesLE v := by
    simp [xorMsg, bytesLE, List.replicate_succ]
  rwa [xor_xor_cancel_right, hbytes, foldl_step8_own_bytes, BitVec.xor_zero] at hxor

/-- Settles O36: of the checksum's bytes the register's part cancels, and what the final XOR leaves is constant. -/
theorem messageWithItsChecksumLeavesTheResidue : Obligations.MessageWithItsChecksumLeavesTheResidue := by
  unfold Obligations.MessageWithItsChecksumLeavesTheResidue
  intro m
  have hcancel : raw m ^^^ crc32 m = xorOut := xor_xor_cancel_left _ _
  have hraw : raw (m ++ bytesLE (crc32 m)) = 0xDEBB20E3#32 := by
    rw [raw_append, foldl_step8_bytesLE, hcancel]
    decide
  refine ⟨hraw, ?_⟩
  rw [crc32, hraw]
  decide

theorem extractLsb'_append_byte {n : Nat} (x : BitVec n) (b : Byte) (k : Nat) :
    (x ++ b).extractLsb' (8 + k) 8 = x.extractLsb' k 8 := by
  rw [BitVec.extractLsb'_append_eq_of_le (Nat.le_add_right 8 k), Nat.add_sub_cancel_left]

/-- Any four bytes are those of a word. -/
theorem exists_bytesLE_eq {m : List Byte} (h : m.length = 4) : ∃ v, bytesLE v = m := by
  match m, h with
  | [b₀, b₁, b₂, b₃], _ =>
    have h₀ : (b₃ ++ b₂ ++ b₁ ++ b₀).extractLsb' 0 8 = b₀ := BitVec.extractLsb'_append_eq_right
    have h₁ : (b₃ ++ b₂ ++ b₁ ++ b₀).extractLsb' 8 8 = b₁ :=
      (extractLsb'_append_byte _ b₀ 0).trans BitVec.extractLsb'_append_eq_right
    have h₂ : (b₃ ++ b₂ ++ b₁ ++ b₀).extractLsb' 16 8 = b₂ :=
      (extractLsb'_append_byte _ b₀ 8).trans ((extractLsb'_append_byte _ b₁ 0).trans BitVec.extractLsb'_append_eq_right)
    have h₃ : (b₃ ++ b₂ ++ b₁ ++ b₀).extractLsb' 24 8 = b₃ :=
      (extractLsb'_append_byte _ b₀ 16).trans ((extractLsb'_append_byte _ b₁ 8).trans BitVec.extractLsb'_append_eq_left)
    exact ⟨b₃ ++ b₂ ++ b₁ ++ b₀, by rw [bytesLE, h₀, h₁, h₂, h₃]⟩

/-- Four bytes are recovered from the register before and after them. -/
theorem eq_of_foldl_step8_eq_of_length_eq_four {a : Word} {m n : List Byte} (hm : m.length = 4) (hn : n.length = 4)
    (h : m.foldl step8 a = n.foldl step8 a) : m = n := by
  obtain ⟨v, rfl⟩ := exists_bytesLE_eq hm
  obtain ⟨w, rfl⟩ := exists_bytesLE_eq hn
  rw [foldl_step8_bytesLE, foldl_step8_bytesLE] at h
  rw [BitVec.xor_right_inj a |>.mp (foldFourZeros_bijective.injective h)]

theorem eq_of_foldl_step8_eq {a : Word} {m n : List Byte} (hlen : m.length = n.length) (hfour : m.length ≤ 4)
    (h : m.foldl step8 a = n.foldl step8 a) : m = n := by
  let pad : List Byte := List.replicate (4 - m.length) 0x00#8
  have hpad : m ++ pad = n ++ pad :=
    eq_of_foldl_step8_eq_of_length_eq_four (a := a) (by simp [pad]; omega) (by simp [pad]; omega)
      (by rw [List.foldl_append, List.foldl_append, h])
  exact List.append_cancel_right hpad

/-- Settles O34: the bytes after the window cannot bring two registers together, nor those inside it. -/
theorem detectsChangesInAFourByteWindow : Obligations.DetectsChangesInAFourByteWindow := by
  unfold Obligations.DetectsChangesInAFourByteWindow
  intro A W W' B hlen hfour hne heq
  have hraw : B.foldl step8 (raw (A ++ W)) = B.foldl step8 (raw (A ++ W')) := by
    rw [← raw_append, ← raw_append]
    exact BitVec.xor_left_inj xorOut |>.mp heq
  have hwindow := foldl_step8_injective B hraw
  rw [raw_append, raw_append] at hwindow
  exact hne (eq_of_foldl_step8_eq hlen hfour hwindow)

end Sys2Proof.Proofs
end

section
/-! Whole messages and the runs that fold them (40_update.md R47, R48, R49). -/

namespace Sys2Proof.Proofs
open Sys2Proof.Machine Sys2Proof.Laws

theorem raw_xorMsg_xorMsg {A B C : List Byte} (hAB : A.length = B.length) (hBC : B.length = C.length) :
    raw (xorMsg (xorMsg A B) C) = raw A ^^^ raw B ^^^ raw C := by
  have hlen : (xorMsg A B).length = C.length := by simp [xorMsg, hAB, hBC]
  calc raw (xorMsg (xorMsg A B) C)
      = (xorMsg (xorMsg A B) C).foldl step8 (initValue ^^^ initValue ^^^ initValue) := by
        rw [xor_xor_cancel_right]; rfl
    _ = raw A ^^^ raw B ^^^ raw C := by rw [foldl_step8_xorMsg _ _ hlen, foldl_step8_xorMsg _ _ hAB]; rfl

theorem crc32_xorMsg_xorMsg {A B C : List Byte} (hAB : A.length = B.length) (hBC : B.length = C.length) :
    crc32 (xorMsg (xorMsg A B) C) = crc32 A ^^^ crc32 B ^^^ crc32 C := by
  unfold crc32
  rw [raw_xorMsg_xorMsg hAB hBC]
  nth_rw 1 [← xor_xor_cancel_right xorOut xorOut]
  ac_rfl

theorem xorMsg_replicate_zero (m : List Byte) : xorMsg m (List.replicate m.length 0x00#8) = m := by
  induction m with
  | nil => rfl
  | cons b m ih =>
    rw [List.length_cons, List.replicate_succ, xorMsg, List.zipWith_cons_cons, BitVec.xor_zero]
    exact congrArg (b :: ·) ih

/-- Settles O33: the start values and the final XORs of three messages leave one; the second form takes zero bytes for
the third message. -/
theorem checksumIsAffine : Obligations.ChecksumIsAffine := by
  unfold Obligations.ChecksumIsAffine
  refine ⟨fun A B C => crc32_xorMsg_xorMsg, fun A B hAB => ?_⟩
  have hlen : (xorMsg A B).length = A.length := by simp [xorMsg, hAB]
  have hzero := xorMsg_replicate_zero (xorMsg A B)
  rw [hlen] at hzero
  rw [← crc32_xorMsg_xorMsg hAB (by simp [hAB]), hzero]

theorem crc32_xor_xorOut (m : List Byte) : crc32 m ^^^ xorOut = raw m := xor_xor_cancel_right _ _

/-- R47: a chunked stream folds the bytes of its chunks, from any state in which no message has failed, and does nothing
in the faulted condition. -/
theorem runSteps_chunkPins (cs : List (List Byte × List Byte)) (s : State) :
    ∃ t, runSteps (chunkPins cs).length (present (chunkPins cs) s) = .next t ∧ t.err = s.err ∧
      t.acc = if s.err = true then s.acc else (cs.flatMap Prod.fst).foldl step8 s.acc := by
  have hps : ∀ p ∈ chunkPins cs, startsRun p = false := fun _ => startsRun_of_mem_chunkPins
  cases hs : s.err with
  | true => exact ⟨_, runSteps_of_err hps hs, hs, rfl⟩
  | false =>
    obtain ⟨t, ht, herr, hacc⟩ := runSteps_of_not_startsRun _ s hps
    have hclear : t.err = false := by rw [herr, hs, any_isAbort_chunkPins]; rfl
    rw [runMsg_chunkPins] at hacc
    exact ⟨t, ht, hclear, hacc hclear⟩

/-- Settles O32: both sequences of inputs are chunked streams with the same bytes. -/
theorem chunkBoundariesDoNotMatter : Obligations.ChunkBoundariesDoNotMatter := by
  unfold Obligations.ChunkBoundariesDoNotMatter
  refine ⟨raw_append, fun A B junk s => ?_, fun A B => ?_⟩
  · have hcut : updPins A ++ idlePins junk ++ updPins B = chunkPins [(A, junk), (B, [])] := by
      simp [chunkPins, idlePins]
    have hwhole : updPins (A ++ B) = chunkPins [(A ++ B, [])] := by simp [chunkPins, idlePins]
    have hcutLen : (chunkPins [(A, junk), (B, [])]).length = A.length + junk.length + B.length := by
      simp [← hcut, updPins, idlePins, Nat.add_assoc]
    have hwholeLen : (chunkPins [(A ++ B, [])]).length = (A ++ B).length := by simp [← hwhole, updPins]
    obtain ⟨t, ht, hterr, htacc⟩ := runSteps_chunkPins [(A, junk), (B, [])] s
    obtain ⟨u, hu, huerr, huacc⟩ := runSteps_chunkPins [(A ++ B, [])] s
    have hacc : t.acc = u.acc := by rw [htacc, huacc]; simp
    have herr : t.err = u.err := hterr.trans huerr.symm
    rw [hcut, hwhole, ← hcutLen, ← hwholeLen]
    exact ⟨t, u, ht, hu, hacc, herr, out_eq_of_acc_eq_of_err_eq hacc herr⟩
  · have hcarried : crc32 A ^^^ 0xFFFFFFFF#32 = raw A := crc32_xor_xorOut A
    rw [hcarried, ← raw_append]
    rfl

end Sys2Proof.Proofs
end
section
/-! Reachability (40_update.md R49): INIT and four bytes set the register to any value, and ABORT sets the flag. -/

namespace Sys2Proof.Proofs
open Sys2Proof.Machine Sys2Proof.Laws

/-- Four bytes take the register from any value to any value. -/
theorem exists_foldl_step8_bytesLE_eq (a v : Word) : ∃ w, (bytesLE w).foldl step8 a = v := by
  obtain ⟨x, rfl⟩ := foldFourZeros_bijective.surjective v
  exact ⟨a ^^^ x, by rw [foldl_step8_bytesLE, xor_xor_cancel_left]⟩

theorem exists_runSteps_acc_eq (s : State) (v : Word) :
    ∃ ps t, runSteps ps.length (present ps s) = .next t ∧ t.acc = v ∧ t.err = false := by
  obtain ⟨w, hw⟩ := exists_foldl_step8_bytesLE_eq initValue v
  have hinit := edgeStep_of_commandAt (commandAt_commandPins .init) { s with edge := s.edge + 1 }
  obtain ⟨t, ht, herr, hacc⟩ := runSteps_chunkPins [(bytesLE w, [])] (fresh { s with edge := s.edge + 1 })
  refine ⟨checksumPins [(bytesLE w, [])], t, (runSteps_present_cons_of_edgeStep hinit _ _).trans ht, ?_, herr⟩
  rw [hacc, ← hw]
  simp [initValue]

/-- Settles O38: the value is reached with the flag clear, and an ABORT laid out behind sets it and keeps `acc`. -/
theorem everyBlockStateIsReachable : Obligations.EveryBlockStateIsReachable := by
  unfold Obligations.EveryBlockStateIsReachable
  intro s v e
  cases e with
  | false => exact exists_runSteps_acc_eq s v
  | true =>
    obtain ⟨ps, t, ht, hacc, -⟩ := exists_runSteps_acc_eq (present [commandPins .abort] s) v
    obtain ⟨u, hu, hstream, -⟩ := runSteps_present_next ps (present [commandPins .abort] s)
    obtain rfl : t = u := Host.Outcome.next.inj (ht.symm.trans hu)
    have hstep : step t = .next (raiseStreamAbort (advance t)) :=
      step_of_commandAt (presented_of_stream_eq_drive_cons hstream) (commandAt_commandPins .abort)
    refine ⟨ps ++ [commandPins .abort], raiseStreamAbort (advance t), ?_, hacc, rfl⟩
    rw [present_append, List.length_append, runSteps_add ht, List.length_singleton, runSteps_one, hstep]

end Sys2Proof.Proofs
end

section
/-! The function as polynomial division over GF(2) (40_update.md R52): folding a bit is multiplying by `x` modulo `G`,
with the register read from bit 31 down. -/

namespace Sys2Proof.Proofs
open Sys2Proof.Machine Polynomial

/-- The coefficient that a bit stands for. -/
noncomputable def bitCoeff (b : Bool) : (ZMod 2)[X] := if b = true then 1 else 0

/-- The polynomial of a register: bit `i` is the coefficient of `x^(31-i)` (R52). -/
noncomputable def registerPoly (a : Word) : (ZMod 2)[X] :=
  (Finset.range 32).sum fun i => if a.getLsbD i = true then X ^ (31 - i) else 0

/-- The generator polynomial `G` (R52). -/
noncomputable def generatorPoly : (ZMod 2)[X] :=
  X ^ 32 + X ^ 26 + X ^ 23 + X ^ 22 + X ^ 16 + X ^ 12 + X ^ 11 + X ^ 10 + X ^ 8 + X ^ 7 + X ^ 5 + X ^ 4 + X ^ 2 + X + 1

/-- The polynomial of a bit string, first bit highest. -/
noncomputable def bitsPoly (bs : List Bool) : (ZMod 2)[X] := bs.foldl (fun p b => X * p + bitCoeff b) 0

/-- The polynomial `M` of a message (R52). -/
noncomputable def messagePoly (m : List Byte) : (ZMod 2)[X] :=
  (Finset.range (8 * m.length)).sum fun k => if msgBit m k = true then X ^ (8 * m.length - 1 - k) else 0

theorem bitCoeff_xor (b c : Bool) : bitCoeff (b ^^ c) = bitCoeff b + bitCoeff c := by
  cases b <;> cases c <;> simp [bitCoeff, CharTwo.add_self_eq_zero]

theorem bitCoeff_mul (b : Bool) (p : (ZMod 2)[X]) : bitCoeff b * p = if b = true then p else 0 := by
  simp [bitCoeff]

theorem registerPoly_eq_sum_bitCoeff (a : Word) :
    registerPoly a = (Finset.range 32).sum fun i => bitCoeff (a.getLsbD i) * X ^ (31 - i) := by
  simp only [registerPoly, bitCoeff_mul]

theorem registerPoly_xor (a b : Word) : registerPoly (a ^^^ b) = registerPoly a + registerPoly b := by
  simp only [registerPoly_eq_sum_bitCoeff, BitVec.getLsbD_xor, bitCoeff_xor, add_mul, Finset.sum_add_distrib]

/-- `POLY_R` holds the coefficients of `G` below `x^32` (R3). -/
theorem generatorPoly_eq : generatorPoly = X ^ 32 + registerPoly polyR := by
  simp [registerPoly, Finset.sum_range_succ, polyR, generatorPoly]
  ring

/-- Shifting right by one place is multiplying by `x`, but for the bit shifted out. -/
theorem X_mul_registerPoly (a : Word) : X * registerPoly a = registerPoly (a >>> 1) + bitCoeff a[0] * X ^ 32 := by
  have hterm : ∀ i ∈ Finset.range 31, X * (bitCoeff (a.getLsbD (i + 1)) * X ^ (31 - (i + 1))) =
      bitCoeff ((a >>> 1).getLsbD i) * X ^ (31 - i) := by
    intro i hi
    have hpow : 31 - i = 31 - (i + 1) + 1 := by have := Finset.mem_range.mp hi; omega
    rw [BitVec.getLsbD_ushiftRight, Nat.add_comm 1 i, hpow, pow_succ]
    ring
  have htop : (a >>> 1).getLsbD 31 = false := by simp
  rw [registerPoly_eq_sum_bitCoeff, registerPoly_eq_sum_bitCoeff, Finset.sum_range_succ', Finset.sum_range_succ _ 31,
    mul_add, Finset.mul_sum, Finset.sum_congr rfl hterm, htop, bitCoeff_mul false, ← BitVec.getLsbD_eq_getElem,
    if_neg Bool.false_ne_true]
  ring

/-- One bit as an equation of polynomials: the feedback bit tells whether `G` is subtracted. -/
theorem registerPoly_step1 (a : Word) (b : Bool) :
    registerPoly (step1 a b) =
      X * registerPoly a + X ^ 32 * bitCoeff b + bitCoeff (a[0] ^^ b) * generatorPoly := by
  have htwo : (2 : (ZMod 2)[X]) = 0 := CharTwo.two_eq_zero
  have hfeedback : registerPoly (if (a[0] ^^ b) = true then polyR else 0#32) =
      bitCoeff (a[0] ^^ b) * registerPoly polyR := by
    cases a[0] ^^ b <;> simp [bitCoeff, registerPoly]
  rw [step1, registerPoly_xor, hfeedback, X_mul_registerPoly, generatorPoly_eq, bitCoeff_xor]
  linear_combination (- (bitCoeff a[0] + bitCoeff b) * X ^ 32) * htwo

/-- R52 for a bit string: from register `a` on, modulo `G`. -/
theorem generatorPoly_dvd_foldl_step1 (a : Word) (bs : List Bool) :
    generatorPoly ∣ X ^ bs.length * registerPoly a + X ^ 32 * bitsPoly bs - registerPoly (bs.foldl step1 a) := by
  induction bs using List.reverseRecOn with
  | nil => simp [bitsPoly]
  | append_singleton bs b ih =>
    have hbits : bitsPoly (bs ++ [b]) = X * bitsPoly bs + bitCoeff b := by simp [bitsPoly]
    rw [List.foldl_append, List.foldl_cons, List.foldl_nil, registerPoly_step1, hbits, List.length_append,
      List.length_singleton, pow_succ]
    generalize bs.foldl step1 a = r at *
    have hsplit : X ^ bs.length * X * registerPoly a + X ^ 32 * (X * bitsPoly bs + bitCoeff b) -
        (X * registerPoly r + X ^ 32 * bitCoeff b + bitCoeff (r[0] ^^ b) * generatorPoly) =
        X * (X ^ bs.length * registerPoly a + X ^ 32 * bitsPoly bs - registerPoly r) -
          bitCoeff (r[0] ^^ b) * generatorPoly := by ring
    rw [hsplit]
    exact dvd_sub (ih.mul_left X) (dvd_mul_left _ _)

theorem bitsPoly_eq_sum (bs : List Bool) :
    bitsPoly bs = (Finset.range bs.length).sum fun k => bitCoeff (bs.getD k false) * X ^ (bs.length - 1 - k) := by
  induction bs using List.reverseRecOn with
  | nil => rfl
  | append_singleton bs b ih =>
    have hbits : bitsPoly (bs ++ [b]) = X * bitsPoly bs + bitCoeff b := by simp [bitsPoly]
    rw [hbits, ih, List.length_append, List.length_singleton, Finset.sum_range_succ, Finset.mul_sum]
    refine congrArg₂ (· + ·) (Finset.sum_congr rfl fun k hk => ?_) ?_
    · have hk := Finset.mem_range.mp hk
      have hpow : bs.length + 1 - 1 - k = bs.length - 1 - k + 1 := by omega
      rw [List.getD_append _ _ _ _ hk, hpow, pow_succ]
      ring
    · simp

theorem msgBit_eq_getD (m : List Byte) (k : Nat) : msgBit m k = (m.flatMap byteBits).getD k false := by
  induction m generalizing k with
  | nil => simp [msgBit]
  | cons d m ih =>
    have hlen : (byteBits d).length = 8 := rfl
    rw [List.flatMap_cons]
    obtain hlt | hge := lt_or_ge k 8
    · rw [List.getD_append _ _ _ _ hlt]
      interval_cases k <;> simp [msgBit, byteBits]
    · rw [List.getD_append_right _ _ _ _ hge]
      obtain ⟨j, rfl⟩ := Nat.exists_eq_add_of_le' hge
      have hdiv : (j + 8) / 8 = j / 8 + 1 := by omega
      have hmod : (j + 8) % 8 = j % 8 := by omega
      rw [hlen, Nat.add_sub_cancel, ← ih, msgBit, msgBit, hdiv, hmod, List.getD_cons_succ]

theorem length_flatMap_byteBits (m : List Byte) : (m.flatMap byteBits).length = 8 * m.length := by
  simp [List.length_flatMap, byteBits, mul_comm]

theorem messagePoly_eq_bitsPoly (m : List Byte) : messagePoly m = bitsPoly (m.flatMap byteBits) := by
  rw [bitsPoly_eq_sum, length_flatMap_byteBits, messagePoly]
  simp only [msgBit_eq_getD, bitCoeff_mul]

theorem raw_eq_foldl_step1 (m : List Byte) : raw m = (m.flatMap byteBits).foldl step1 initValue := by
  rw [List.foldl_flatMap]
  rfl

theorem registerPoly_initValue : registerPoly initValue = (Finset.range 32).sum fun i => X ^ i := by
  have hones : initValue = BitVec.allOnes 32 := rfl
  have hbit : ∀ i ∈ Finset.range 32, (if initValue.getLsbD i = true then (X : (ZMod 2)[X]) ^ (31 - i) else 0) =
      X ^ (31 - i) := by
    intro i hi
    rw [hones, BitVec.getLsbD_allOnes, if_pos (decide_eq_true (Finset.mem_range.mp hi))]
  rw [registerPoly, Finset.sum_congr rfl hbit, Finset.sum_range_reflect (fun i => (X : (ZMod 2)[X]) ^ i) 32]

theorem degree_registerPoly_lt (a : Word) : (registerPoly a).degree < 32 := by
  refine mem_degreeLT.mp (Submodule.sum_mem _ fun i _ => ?_)
  split
  · exact mem_degreeLT.mpr (by rw [degree_X_pow]; exact_mod_cast (by omega))
  · exact Submodule.zero_mem _

theorem monic_generatorPoly : generatorPoly.Monic := by
  rw [generatorPoly_eq]
  exact monic_X_pow_add (degree_registerPoly_lt polyR)

theorem degree_generatorPoly : generatorPoly.degree = 32 := by
  have hpow : (X ^ 32 : (ZMod 2)[X]).degree = 32 := degree_X_pow 32
  rw [generatorPoly_eq, degree_add_eq_left_of_degree_lt ((degree_registerPoly_lt polyR).trans_eq hpow.symm), hpow]

/-- A polynomial of a register is its own remainder. -/
theorem registerPoly_modByMonic (a : Word) : registerPoly a %ₘ generatorPoly = registerPoly a := by
  rw [modByMonic_eq_self_iff monic_generatorPoly, degree_generatorPoly]
  exact degree_registerPoly_lt a

/-- Settles O37: the congruence for the bit string of the message, and the degree of a register's polynomial. -/
theorem rawRegisterIsThePolynomialRemainder : Obligations.RawRegisterIsThePolynomialRemainder := by
  unfold Obligations.RawRegisterIsThePolynomialRemainder
  intro m
  change (messagePoly m * X ^ 32 + (Finset.range 32).sum (fun i => (X : (ZMod 2)[X]) ^ i) * X ^ (8 * m.length)) %ₘ
    generatorPoly = registerPoly (raw m)
  have hdvd := generatorPoly_dvd_foldl_step1 initValue (m.flatMap byteBits)
  rw [← raw_eq_foldl_step1, ← messagePoly_eq_bitsPoly, length_flatMap_byteBits, registerPoly_initValue] at hdvd
  rw [← registerPoly_modByMonic (raw m)]
  refine modByMonic_eq_of_dvd_sub monic_generatorPoly ?_
  convert hdvd using 2
  ring

end Sys2Proof.Proofs
end

section
/-! Printed values (95_test_vectors.md; 30_encoding.md R32) and the reading back of printed words (R35). -/

namespace Sys2Proof.Proofs
open Sys2Proof.Machine Sys2Proof.Laws

/-- Settles O1: the eleven words are values of the decoder. -/
theorem specWordsDecode : Obligations.SpecWordsDecode := by
  unfold Obligations.SpecWordsDecode
  decide

/-- Settles O35: the four messages are values of the fold. -/
theorem specCollisions : Obligations.SpecCollisions := by
  unfold Obligations.SpecCollisions
  decide

/-- Settles O45: the check value, and the other values by evaluation. -/
theorem specVectors : Obligations.SpecVectors := by
  unfold Obligations.SpecVectors
  exact ⟨crc32_checkMessage, by decide⟩

/-- Inside a word the lexer takes a hexadecimal digit into it. -/
theorem lexLine_inWord_hexDigit (v : BitVec 4) (t cs : Text) :
    lexLine (.inWord t) (hexDigit v :: cs) = lexLine (.inWord (hexDigit v :: t)) cs := by
  have hplain : ∀ v, hexDigit v ≠ ';' ∧ isBlank (hexDigit v) = false ∧ hexDigit v ≠ ':' ∧
      (hexDigit v = quoteChar || hexDigit v = stringChar) = false := by decide
  obtain ⟨hcomment, hblank, hcolon, hquote⟩ := hplain v
  simp only [lexLine, hcomment, hblank, hcolon, hquote, Bool.false_eq_true, ↓reduceIte]

theorem hexValue_hexDigit : ∀ v : BitVec 4, hexValue (hexDigit v) = some v.toNat := by decide

theorem ofNat_digits_eq (b : Byte) :
    BitVec.ofNat 8 (16 * (b.extractLsb' 4 4).toNat + (b.extractLsb' 0 4).toNat) = b := by
  revert b
  decide

theorem lexLine_commandText_upd (b : Byte) :
    lexLine .idle (commandText (.upd b)) = some [.word ['U', 'P', 'D'], .word (byteText b)] := by
  change (lexLine (.inWord ['x', '0']) [hexDigit (b.extractLsb' 4 4), hexDigit (b.extractLsb' 0 4)]).map _ = _
  rw [lexLine_inWord_hexDigit, lexLine_inWord_hexDigit]
  rfl

theorem hexNumber_two_digits (h l : BitVec 4) :
    hexNumber 0 [hexDigit h, hexDigit l] = some (16 * h.toNat + l.toNat) := by
  simp [hexNumber, hexValue_hexDigit]

theorem byteOf_byteText (b : Byte) : byteOf (.word (byteText b)) = some b := by
  rw [byteText, byteOf, hexNumber_two_digits, Option.map_some, ofNat_digits_eq]

theorem parseLine_commandText (i : Instr) : parseLine (commandText i) = some (.command i) := by
  cases i with
  | nop => rfl
  | upd b =>
    have hline : lineOf (dropLabel [.word ['U', 'P', 'D'], .word (byteText b)]) = some (.command (.upd b)) :=
      congrArg (Option.map fun v => Line.command (.upd v)) (byteOf_byteText b)
    simp [parseLine, lexLine_commandText_upd, hline, lineWellFormed, Instr.wellFormed]
  | init => rfl
  | abort => rfl

/-- Settles O44: the text of a word is that of its command, which reads back as the command. -/
theorem assemblerReadsTheDisassembly : Obligations.AssemblerReadsTheDisassembly := by
  unfold Obligations.AssemblerReadsTheDisassembly
  exact ⟨fun w => parseLine_commandText (decode w), rfl, rfl⟩

end Sys2Proof.Proofs
end
